-- ==== Sys2Proof/Word.lean ====
section
/-! DEFINITION. The word types of the CopierMaschine ASR core (spec/00_scope.md R13, R17; spec/30_encoding.md R92). -/

namespace Sys2Proof

/-- A sample: the 32-bit pattern of one IEEE 754 binary32 value (R17, R92). -/
abbrev F32 := BitVec 32

/-- One parameter register: 16 bits, read as a signed two's complement integer (R13, R30). -/
abbrev ParamWord := BitVec 16

/-- A ByteBeat operand or result: an unsigned 8-bit value (R91, R121). -/
abbrev Byte := BitVec 8

/-- `T_WIDTH` (R10, R23, D7): the width of the ByteBeat counter. -/
abbrev tWidth : Nat := 32

/-- The ByteBeat time counter's type: `T_WIDTH` bits, wrapping (R23). -/
abbrev Time := BitVec tWidth

/-- A stage `k`: one of the four tap, quantize and output lanes (R19). -/
inductive Stage where
  | k1 | k2 | k3 | k4
deriving DecidableEq, Repr

/-- The number of a stage, 1 to 4 (R19). -/
def Stage.num : Stage → Nat
  | .k1 => 1
  | .k2 => 2
  | .k3 => 3
  | .k4 => 4

/-- One sample for each stage: the four output registers, the four tap values, the four quantized values. -/
structure Lanes where
  s1 : F32
  s2 : F32
  s3 : F32
  s4 : F32
deriving DecidableEq, Repr

/-- All four lanes at +0.0 (R54). -/
def Lanes.zero : Lanes := ⟨0, 0, 0, 0⟩

/-- The lane of stage `k`. -/
def Lanes.get (l : Lanes) : Stage → F32
  | .k1 => l.s1
  | .k2 => l.s2
  | .k3 => l.s3
  | .k4 => l.s4

/-- The lanes with stage `k`'s replaced. -/
def Lanes.set (l : Lanes) (v : F32) : Stage → Lanes
  | .k1 => { l with s1 := v }
  | .k2 => { l with s2 := v }
  | .k3 => { l with s3 := v }
  | .k4 => { l with s4 := v }

end Sys2Proof
end

