-- ==== Sys2Proof/Machine/Numerics.lean ====
section
/-! DEFINITION. The integer primitives of R15 and the binary32 primitives of R17 (spec/00_scope.md).
Every finite binary32 value is an integer multiple of `2^-149`; an operation computes on those integers exactly and
rounds once at the end (PRESUMED: the IEEE 754 rules, which R17 marks as general knowledge; log 12). -/

namespace Sys2Proof.Machine

/-! ## Integer primitives (R15) -/

/-- `floor_div(a, b)` for `b > 0`: the greatest `q` with `q * b ≤ a` (R15). -/
def floorDiv (a b : Int) : Int := a / b

/-- `emod(a, b)` for `b > 0`: `a - b * floor_div(a, b)`, in `0 .. b-1` also for negative `a` (R15). -/
def emod (a b : Int) : Int := a - b * floorDiv a b

/-- `clamp(x, lo, hi)` (R15). -/
def clamp (x lo hi : Int) : Int := if x < lo then lo else if hi < x then hi else x

/-! ## Fields and classes of a binary32 pattern (R92) -/

/-- `2^-149` is the spacing of the subnormal numbers; `oneUnits` of them make 1.0. -/
def oneUnits : Nat := 2 ^ 149

def posInf : F32 := 0x7F800000#32
def quietNaN : F32 := 0x7FC00000#32
def f32One : F32 := 0x3F800000#32
def f32Twelve : F32 := 0x41400000#32
def f32OneTwentyEight : F32 := 0x43000000#32

/-- Bit 31, the sign (R92). -/
def signBit (x : F32) : Bool := x.getLsbD 31

/-- Bits 30:0, sign removed. -/
def magBits (x : F32) : Nat := x.toNat % 2 ^ 31

def isNaN (x : F32) : Bool := decide (0x7F800000 < magBits x)
def isInf (x : F32) : Bool := decide (magBits x = 0x7F800000)
def isFinite (x : F32) : Bool := decide (magBits x < 0x7F800000)

/-- The magnitude of a finite sample as a multiple of `2^-149`, from the exponent field `magBits / 2^23` (bias 127) and
the fraction `magBits % 2^23` (R92). For an infinity it is `2^277`, above every finite sample's. -/
def units (x : F32) : Nat :=
  if magBits x < 2 ^ 23 then magBits x
  else (2 ^ 23 + magBits x % 2 ^ 23) * 2 ^ (magBits x / 2 ^ 23 - 1)

/-- The signed value in multiples of `2^-149`. -/
def sunits (x : F32) : Int := if signBit x then -(units x : Int) else (units x : Int)

/-- The pattern with magnitude bits `mag` and the given sign. -/
def withSign (neg : Bool) (mag : Nat) : F32 := BitVec.ofNat 32 (if neg then mag + 2 ^ 31 else mag)

/-! ## Rounding (R17: to nearest, ties to even, overflow to infinity) -/

/-- The integer nearest to `num / den`, a tie to the even one. -/
def nearestEven (num den : Nat) : Nat :=
  let q := num / den
  let r := num % den
  if den < 2 * r ∨ (2 * r = den ∧ q % 2 = 1) then q + 1 else q

/-- `num / den` (in multiples of `2^-149`) rounded to binary32 magnitude bits: the quantum is `2^e` such that the
quotient has at most 24 bits; a result past the largest finite number is an infinity. -/
def roundMag (num den : Nat) : Nat :=
  let e := (num / den).log2 - 23
  let bits := e * 2 ^ 23 + nearestEven num (den * 2 ^ e)
  if 0x7F800000 ≤ bits then 0x7F800000 else bits

/-- The signed value `±num / den` (in multiples of `2^-149`) rounded to a sample. -/
def roundUnits (neg : Bool) (num den : Nat) : F32 := withSign neg (roundMag num den)

/-! ## The primitives (R17) -/

def fneg (x : F32) : F32 := x ^^^ 0x80000000#32

/-- `fabs(x)` clears the sign (R17). -/
def fabs (x : F32) : F32 := x &&& 0x7FFFFFFF#32

def fadd (a b : F32) : F32 :=
  if isNaN a || isNaN b then quietNaN
  else if isInf a then (if isInf b && (signBit a != signBit b) then quietNaN else a)
  else if isInf b then b
  else
    let z := sunits a + sunits b
    if z = 0 then withSign (signBit a && signBit b) 0
    else roundUnits (decide (z < 0)) z.natAbs 1

def fsub (a b : F32) : F32 := fadd a (fneg b)

def fmul (a b : F32) : F32 :=
  if isNaN a || isNaN b then quietNaN
  else if isInf a || isInf b then
    if units a = 0 ∨ units b = 0 then quietNaN else withSign (signBit a != signBit b) 0x7F800000
  else roundUnits (signBit a != signBit b) (units a * units b) oneUnits

def fdiv (a b : F32) : F32 :=
  if isNaN a || isNaN b then quietNaN
  else if isInf a then (if isInf b then quietNaN else withSign (signBit a != signBit b) 0x7F800000)
  else if isInf b then withSign (signBit a != signBit b) 0
  else if units b = 0 then
    if units a = 0 then quietNaN else withSign (signBit a != signBit b) 0x7F800000
  else roundUnits (signBit a != signBit b) (units a * oneUnits) (units b)

/-- `i2f(n)`: the nearest sample to the integer, ties to even (R17). -/
def i2f (n : Int) : F32 := roundUnits (decide (n < 0)) (n.natAbs * oneUnits) 1

/-- `QROUND` (R104, D26): how `fround` resolves an exact tie. -/
inductive TieRule where
  | halfAway | halfEven
deriving DecidableEq, Repr

/-- The integer nearest to `u * 2^-149`, a tie resolved by the rule (R104). -/
def nearestInt (tie : TieRule) (u : Nat) : Nat :=
  match tie with
  | .halfEven => nearestEven u oneUnits
  | .halfAway => if oneUnits ≤ 2 * (u % oneUnits) then u / oneUnits + 1 else u / oneUnits

/-- `fround(x)`: the integer-valued sample nearest to `x`, the sign kept (`fround(-0.4)` is -0.0); an infinity or a NaN
is returned as it is (R17, R104). -/
def fround (tie : TieRule) (x : F32) : F32 :=
  if isFinite x then roundUnits (signBit x) (nearestInt tie (units x) * oneUnits) 1 else x

/-- `f2i(x)` of an integer-valued finite sample (R17). -/
def f2i (x : F32) : Int := if signBit x then -((units x / oneUnits : Nat) : Int) else ((units x / oneUnits : Nat) : Int)

/-- `x < y`, false when an operand is a NaN; -0.0 equals +0.0 (R17). -/
def flt (x y : F32) : Bool := !isNaN x && !isNaN y && decide (sunits x < sunits y)

/-- `x ≤ y`, false when an operand is a NaN (R17). -/
def fle (x y : F32) : Bool := !isNaN x && !isNaN y && decide (sunits x ≤ sunits y)

/-- `fmod12(x)` for finite `x`: `x` itself for `0 ≤ x < 12`, else the exact `x - 12 * floor(x / 12)` rounded once (R17).
R17 gives it no value on an infinity or a NaN, on which no rule uses it: there it is a NaN. -/
def fmod12 (x : F32) : F32 :=
  if !isFinite x then quietNaN
  else if fle 0 x && flt x f32Twelve then x
  else roundUnits false (emod (sunits x) (12 * oneUnits : Nat)).natAbs 1

end Sys2Proof.Machine
end

