-- ==== Sys2Proof/Config.lean ====
section
/-! DEFINITION. What is fixed for one machine and never state (R10, R51): the constant stores whose contents the spec does
not give, the switches the spec decides but keeps as parameters, and the free values (R18). Every operation of the model
takes a `Config`, so a statement about an operation can hold for every configuration. The stores and the free values of
the machine itself are opaque: nothing can be proved of them but what their types say. -/

namespace Sys2Proof

/-- `SEQ_LOOP_WRAP` (R10, R143, R151, D37). -/
inductive LoopWrap where
  | toZero | modulo
deriving DecidableEq, Repr

/-- A scale entry is finite and not negative (R101): as a bit pattern, at most the largest finite sample. -/
def entryOk (e : F32) : Bool := decide (e.toNat < 0x7F800000)

/-- R101 on one scale: length 5 to 20, entry 0 is 0.0, every entry finite and not negative, entries ascend.
Not-negative samples are ordered as their bit patterns. "Ascend" is taken as "do not descend", the weaker reading (log 7). -/
def scaleOk (l : List F32) : Bool :=
  decide (5 ≤ l.length) && decide (l.length ≤ 20) && decide (l.head? = some 0) && l.all entryOk
    && decide (l.Pairwise fun a b => a.toNat ≤ b.toNat)

/-- An entry is integral (R101: standard scales are "always integral"). -/
def entryIntegral (e : F32) : Bool := decide (Machine.units e % Machine.oneUnits = 0)

/-- One exotic scale: its ordered list of intervals under the constraints of R101. The default field value serves only to
show that the type is not empty. -/
structure Scale where
  entries : List F32 := [0#32, 0x3F800000#32, 0x40000000#32, 0x40400000#32, 0x40800000#32]
  ok : scaleOk entries = true := by decide
deriving Inhabited

/-- One standard scale: as a scale, and every entry integral (R101). -/
structure StdScale where
  entries : List F32 := [0#32, 0x3F800000#32, 0x40000000#32, 0x40400000#32, 0x40800000#32]
  ok : scaleOk entries = true := by decide
  integral : entries.all entryIntegral = true := by decide
deriving Inhabited

/-- Major, `[0, 2, 4, 5, 7, 9, 11, 12]`, the one scale the source spells out (R101). -/
def majorScale : List F32 :=
  [0x00000000#32, 0x40000000#32, 0x40800000#32, 0x40A00000#32, 0x40E00000#32, 0x41100000#32, 0x41300000#32, 0x41400000#32]

/-- `SCALE_ROM` under all that R101 fixes of it: each scale meets the constraints of its kind, and one of the 133 is Major. At
which index, and so of which kind, is not given (N1). The default field values serve only to show that the type is not
empty. -/
structure ScaleRom where
  /-- `SCALE_ROM(i)` for `i` in 0..15 (R100, D25). -/
  std : Fin 16 → StdScale := fun _ => ⟨majorScale, by decide, by decide⟩
  /-- The exotic table: `SCALE_ROM(i)` is its entry `i - 16` for `i` in 16..132 (R100, D25). -/
  exo : Fin 117 → Scale := fun _ => default
  /-- One scale is Major. -/
  hasMajor : (∃ i, (std i).entries = majorScale) ∨ ∃ j, (exo j).entries = majorScale := by exact .inl ⟨0, rfl⟩
deriving Inhabited

/-- The configuration record of R10. Its parameter `w` is `T_WIDTH`, a natural number; the machine takes 32 (D7). -/
structure Config (w : Nat) where
  /-- `T_WIDTH` is at least 16 (R10, D7). -/
  wide : 16 ≤ w
  /-- `QROUND` (D26). -/
  qround : Machine.TieRule
  /-- `SEQ_LOOP_WRAP` (D37). -/
  loopWrap : LoopWrap
  /-- `ADVANCE_FIRST` (D13, R153). -/
  advanceFirst : Bool
  /-- `GAIN_MAP` (D12). -/
  gainMap : ParamWord → F32
  /-- `BB_EQ(i)` for `i` in 1..15 (D15); index 0 is not used, since R122 fixes equation 0. -/
  bbEq : Fin 16 → BitVec w → Byte → Byte → Byte → Byte
  /-- `SEQ_ROM` (D22): ten tables of 128 integers, under `Config.SeqRomOk`. An instantiation that breaks it with a negative
  entry gets any value for a sample read from that entry (R154, U3), so the type does not exclude it. -/
  seqRom : Fin 10 → Fin 128 → Int
  /-- `SCALE_ROM` under the constraints of R101 (D25). -/
  scaleRom : ScaleRom
  /-- The free values of R18: draw number `n` is any sample. -/
  draw : Nat → F32

/-- The constraint of R154 on `SEQ_ROM`: every entry is not negative and fits 32 bits. -/
def Config.SeqRomOk {w : Nat} (c : Config w) : Prop := ∀ table a, 0 ≤ c.seqRom table a ∧ c.seqRom table a < 2 ^ 32

/-- The formulas of equations 1 to 15 (N3, D15). -/
opaque Config.openBbEq : Fin 16 → Time → Byte → Byte → Byte → Byte

/-- The ten integer tables (N2, D22), each entry not negative and of 32 bits (R154): the integer is the unsigned one. -/
opaque Config.openSeqRom : Fin 10 → Fin 128 → BitVec 32

/-- The 133 scales (N1, D25). -/
opaque Config.openScaleRom : ScaleRom

/-- The sixteen standard scales. -/
abbrev Config.openStdRom : Fin 16 → StdScale := Config.openScaleRom.std

/-- The 117 exotic scales. -/
abbrev Config.openExoRom : Fin 117 → Scale := Config.openScaleRom.exo

/-- The free values (R18, D33): a fresh, unconstrained sample for each number. -/
opaque Config.freeSample : Nat → F32

end Sys2Proof
end

