-- ==== Sys2Proof/Machine/Device.lean ====
section
/-! DEFINITION. The configuration of the machine: the values R10 decides, and the open stores and free values as opaque
constants. -/

namespace Sys2Proof.Machine

/-- `GAIN_MAP(g) = i2f(g)`, the value R10 takes (R184, D12). -/
def gainAsInteger (g : ParamWord) : F32 := i2f g.toInt

/-- The machine's configuration (R10; log 6, 7). -/
def device : Config tWidth where
  wide := by decide
  qround := .halfAway
  loopWrap := .toZero
  advanceFirst := true
  gainMap := gainAsInteger
  bbEq := Config.openBbEq
  seqRom := fun table a => (Config.openSeqRom table a).toNat
  scaleRom := Config.openScaleRom
  draw := Config.freeSample

end Sys2Proof.Machine
end

