-- ==== Sys2Proof/Syntax.lean ====
section
/-! DEFINITION. The instructions: one constructor for each of the 40 rows of spec/opcode_table.json, and the parameter
snapshot a LOADP carries (spec/30_encoding.md R80 to R90). -/

namespace Sys2Proof

/-- The 19 parameter registers `P[0]` to `P[18]` in index order (R30 to R49, R84); also the snapshot of a LOADP. -/
structure Params where
  scale : ParamWord
  root : ParamWord
  transpose : ParamWord
  rotation : ParamWord
  bufIndex : ParamWord
  bufLen : ParamWord
  hold : ParamWord
  gain : ParamWord
  src : ParamWord
  bbEq : ParamWord
  bbP0 : ParamWord
  bbP1 : ParamWord
  bbP2 : ParamWord
  seqSel : ParamWord
  seqMod : ParamWord
  seqStart : ParamWord
  seqLen : ParamWord
  seqDir : ParamWord
  seqStride : ParamWord
deriving DecidableEq, Repr

/-- The names of the parameter registers, in index order (R84). -/
inductive ParamName where
  | scale | root | transpose | rotation | bufIndex | bufLen | hold | gain | src | bbEq
  | bbP0 | bbP1 | bbP2 | seqSel | seqMod | seqStart | seqLen | seqDir | seqStride
deriving DecidableEq, Repr

/-- Every parameter register at 0 (R54). -/
def Params.zero : Params := ⟨0, 0, 0, 0, 0, 0, 0, 0, 0, 0, 0, 0, 0, 0, 0, 0, 0, 0, 0⟩

/-- The instructions. The four commands carry their payload (R80); the rows that run inside a TICK or a LOADP take their
operands from the state, a quantizer row also the stage it runs for (R90). -/
inductive Instr where
  /-- IDLE (R183). -/
  | idle
  /-- LOADP with its snapshot (R181). -/
  | loadp (snapshot : Params)
  /-- TICK with its CV and clock samples (R182). -/
  | tick (cv clk : F32)
  /-- RST (R180). -/
  | rst
  /-- SRC.CV (R184). -/
  | srcCv
  /-- SRC.BB (R186). -/
  | srcBb
  /-- SRC.SEQ (R187). -/
  | srcSeq
  /-- BB.EQ0 (R122). -/
  | bbEq0
  /-- BB.EQ1 (R123). -/
  | bbEq1
  /-- BB.EQ2 (R124). -/
  | bbEq2
  /-- BB.EQ3 (R125). -/
  | bbEq3
  /-- BB.EQ4 (R126). -/
  | bbEq4
  /-- BB.EQ5 (R127). -/
  | bbEq5
  /-- BB.EQ6 (R128). -/
  | bbEq6
  /-- BB.EQ7 (R129). -/
  | bbEq7
  /-- BB.EQ8 (R130). -/
  | bbEq8
  /-- BB.EQ9 (R131). -/
  | bbEq9
  /-- BB.EQ10 (R132). -/
  | bbEq10
  /-- BB.EQ11 (R133). -/
  | bbEq11
  /-- BB.EQ12 (R134). -/
  | bbEq12
  /-- BB.EQ13 (R135). -/
  | bbEq13
  /-- BB.EQ14 (R136). -/
  | bbEq14
  /-- BB.EQ15 (R137). -/
  | bbEq15
  /-- BB.OOR (R138). -/
  | bbOor
  /-- SEQ.LOOP (R143). -/
  | seqLoop
  /-- SEQ.PEND (R144). -/
  | seqPend
  /-- QNT.STD for one stage (R111). -/
  | qntStd (k : Stage)
  /-- QNT.EXO for one stage (R112). -/
  | qntExo (k : Stage)
  /-- QNT.EMPTY for one stage (R110). -/
  | qntEmpty (k : Stage)
  /-- EDGE (R161). -/
  | edge
  /-- SEQ.RESET (R141). -/
  | seqReset
  /-- SEQ.READ (R145). -/
  | seqRead
  /-- SEQ.SCALE (R147). -/
  | seqScale
  /-- ASR.WR (R163). -/
  | asrWr
  /-- ASR.TAP1 (R165). -/
  | asrTap1
  /-- ASR.TAP2 (R166). -/
  | asrTap2
  /-- ASR.TAP3 (R167). -/
  | asrTap3
  /-- ASR.TAP4 (R168). -/
  | asrTap4
  /-- OUT (R188). -/
  | out
  /-- ASR.NORM (R170). -/
  | asrNorm
deriving DecidableEq, Repr

/-- One sample of the core's input ports (R81): the command code, the LOADP payload, the two TICK payloads. A command
reads only the payload ports R80 gives it. -/
structure PortSample where
  cmd : BitVec 2
  paramIn : BitVec 304
  cvIn : F32
  clkIn : F32
deriving DecidableEq, Repr

/-- The `format` of a table row: the word that selects it (R95). -/
inductive Format where
  | cmd | selSrc | selBbeq | selSeqdir | selScale | phase | loadpSub
deriving DecidableEq, Repr

end Sys2Proof
end

