-- ==== Sys2Proof/Machine/State.lean ====
section
/-! DEFINITION. The state of the core (spec/10_state.md R20 to R56), as plain data. -/

namespace Sys2Proof.Machine

/-- The ASR buffer's cells that differ from +0.0, as (cell address, sample) pairs, addresses rising (R29). A cell that is
not listed holds +0.0, its reset value (R54). The cell, not the byte, is the unit of every access (R62, R63; log 4). -/
abbrev Memory := List (Nat × F32)

/-- The local names of the TICK pseudocode (R189) that one phase hands to the next. They are not state of the core: R52 has
them dropped at the end of every TICK, and between commands they are `TickLocals.idle` (log 2). -/
structure TickLocals where
  /-- The CV sample of this TICK (R83). -/
  cv : F32
  /-- The clock sample of this TICK (R83). -/
  clk : F32
  /-- The condition phase 1 computes (R28, R161). -/
  edge : Bool
  /-- The raw sample of phase 2 (R52). -/
  raw : F32
  /-- The table value SEQ.READ hands to SEQ.SCALE (R145, R147). -/
  tv : Int
  /-- The four tap values of phase 4 (R165 to R168). -/
  tap : Lanes
  /-- The four quantized values of phase 5 (R188). -/
  q : Lanes
deriving DecidableEq, Repr

/-- No TICK is running. -/
def TickLocals.idle : TickLocals := ⟨0, 0, false, 0, 0, Lanes.zero, Lanes.zero⟩

/-- The state of R20, then the model's own three fields. `w` is `T_WIDTH`, a parameter of the model (R10, D7). -/
structure State.At (w : Nat) where
  /-- `BUF` (R29). -/
  buf : Memory
  /-- `WC`, the write cursor (R21). -/
  wc : BitVec 6
  /-- `PREV`, the clock-edge memory (R22). -/
  prev : F32
  /-- `T`, the ByteBeat time counter (R23). -/
  t : BitVec w
  /-- `CUR`, the integer-sequence cursor, signed (R24). -/
  cur : BitVec 32
  /-- `DIR`: false is 0, direction +1; true is 1, direction -1 (R25, R93). -/
  dir : Bool
  /-- `P[0..18]` (R30 to R49). -/
  params : Params
  /-- `OUT[1..4]` (R26). -/
  out : Lanes
  /-- The model's own: the locals of a running TICK (log 2). -/
  loc : TickLocals
  /-- The model's own: how many free values have been drawn (R18; log 3). -/
  draws : Nat
  /-- The model's own: the commands the host has issued and the core has not executed, oldest first (R80, R208; log 1). -/
  inbox : List PortSample
deriving DecidableEq, Repr

/-- The state of the machine: the counter has the width of R23. -/
abbrev State := State.At tWidth

/-- The state after RST (R54, R220) at counter width `w`; no command waits and nothing has been drawn (log 1, 2, 3). -/
def State.zero (w : Nat) : State.At w where
  buf := []
  wc := 0
  prev := 0
  t := 0
  cur := 0
  dir := false
  params := Params.zero
  out := Lanes.zero
  loc := TickLocals.idle
  draws := 0
  inbox := []

/-- The machine right after reset: the state after RST (R54, R220; log 19). -/
def State.reset : State := State.zero tWidth

/-- Why the machine would stop with a fault. The core raises no exception (R200); this is the one condition the source calls
fatal. -/
inductive Fault where
  /-- A buffer access outside cells 0 to 63, raised by `readCell` and `writeCell`. R65 has it "prevented by construction":
  no instruction reaches it in any state. Safe (log 5). -/
  | bufferOutOfBounds (address : Int)
deriving DecidableEq, Repr

/-- Why the machine would refuse an instruction. -/
inductive Refusal where
  /-- Raised by an arm of `exec` whose instruction has no meaning yet; no arm does. Safe. -/
  | notModelled (mnemonic : String)
deriving DecidableEq, Repr

end Sys2Proof.Machine
end

