-- ==== Sys2Proof/Machine/Ops.lean ====
section
/-! DEFINITION. The named operations the meanings share: sequencing, the buffer's cells, the free values. There is no
operation that takes an exception and none that returns from one: the core raises none and has no trap entry, no trap
return, no saved register and no mode (R200, R204, R205, R207). -/

namespace Sys2Proof.Machine

variable {w : Nat}

/-- The answer of an instruction, for a counter width; the machine's own where none is given. -/
abbrev Result (w : Nat := tWidth) := Host.Outcome (State.At w) Fault Refusal

/-- Run `f` after a step that answered a next state; a stop stays a stop. -/
def andThen (o : Result w) (f : State.At w → Result w) : Result w :=
  match o with
  | .next s => f s
  | .fault r => .fault r
  | .refused r => .refused r

/-! ## The ASR buffer (R29, R60, R63) -/

/-- `CAP` (R9): the capacity of the buffer in cells. -/
def bufferCells : Nat := 64

/-- The sample in cell `a`; a cell that is not listed holds +0.0 (R29, R54). -/
def Memory.read : Memory → Nat → F32
  | [], _ => 0#32
  | (b, v) :: m, a => if a = b then v else Memory.read m a

/-- The cells after sample `v` is stored in cell `a`: the canonical form is kept, so a cell that becomes +0.0 is dropped. -/
def Memory.write : Memory → Nat → F32 → Memory
  | [], a, v => if v = 0#32 then [] else [(a, v)]
  | (b, w) :: m, a, v =>
    if a < b then (if v = 0#32 then (b, w) :: m else (a, v) :: (b, w) :: m)
    else if a = b then (if v = 0#32 then m else (a, v) :: m)
    else (b, w) :: Memory.write m a v

/-- The canonical form from address `lo` on: addresses strictly rise and are cells of the buffer, no listed cell is +0.0. -/
def Memory.wfFrom (lo : Nat) : Memory → Bool
  | [] => true
  | (a, v) :: m => decide (lo ≤ a) && decide (a < bufferCells) && decide (v ≠ 0#32) && Memory.wfFrom (a + 1) m

/-- The canonical form. -/
def Memory.wf (m : Memory) : Bool := Memory.wfFrom 0 m

/-- `MemRead(BUF, a)` (R14): one whole cell; an address that is no cell is the out-of-bounds access of R65. -/
def readCell (m : Memory) (a : Int) : Except Fault F32 :=
  if 0 ≤ a ∧ a < bufferCells then .ok (m.read a.toNat) else .error (.bufferOutOfBounds a)

/-- `MemWrite(BUF, a, v)` (R14): one whole cell; an address that is no cell is the out-of-bounds access of R65. -/
def writeCell (m : Memory) (a : Int) (v : F32) : Except Fault Memory :=
  if 0 ≤ a ∧ a < bufferCells then .ok (m.write a.toNat v) else .error (.bufferOutOfBounds a)

/-! ## Index clamps (R65) -/

/-- `clamp(x, 0, n - 1)` as an index of a store of `n > 0` cells. -/
def clampIndex (x : Int) (n : Nat) (h : 0 < n) : Fin n :=
  ⟨(clamp x 0 (n - 1)).toNat, by unfold clamp; split <;> [skip; split] <;> omega⟩

/-! ## Free values (R18) -/

/-- The NaN a drawn sample stands for: every NaN is one of them (U24, log 11). -/
def asNaN (x : F32) : F32 := if isNaN x then x else quietNaN

/-! ## The locals of a TICK (R52, R189) -/

/-- Phase 2 hands over its raw sample. -/
def setRaw (s : State.At w) (raw : F32) : State.At w := { s with loc := { s.loc with raw := raw } }

/-- Phase 2 hands over a raw sample that is any value, a fresh draw (R18, R147). -/
def drawRaw (c : Config w) (s : State.At w) : State.At w :=
  { s with loc := { s.loc with raw := c.draw s.draws }, draws := s.draws + 1 }

/-- Phase 4 hands over the tap value of stage `k`. -/
def setTap (s : State.At w) (k : Stage) (v : F32) : State.At w := { s with loc := { s.loc with tap := s.loc.tap.set v k } }

/-- Phase 5 hands over the quantized value of stage `k`. -/
def setQ (s : State.At w) (k : Stage) (v : F32) : State.At w := { s with loc := { s.loc with q := s.loc.q.set v k } }

/-- Phase 5 hands over any value for stage `k`, a fresh draw (R18, R114). -/
def drawQ (c : Config w) (s : State.At w) (k : Stage) : State.At w :=
  { setQ s k (c.draw s.draws) with draws := s.draws + 1 }

end Sys2Proof.Machine
end

