-- ==== Sys2Proof/Machine/Operands.lean ====
section
/-! DEFINITION. How each operand is formed from register bits (spec/30_encoding.md R91; spec/10_state.md R31 to R50). -/

namespace Sys2Proof.Machine

variable {w : Nat}

/-- `sext_32(P.X)`: a parameter as a signed integer (R91). -/
def sext (w : ParamWord) : Int := w.toInt

/-- `P.BBPn[7:0]`: the low byte, unsigned (R41 to R43, R91). -/
def lowByte (w : ParamWord) : Byte := w.extractLsb' 0 8

/-- `L = clamp(P.BUFLEN, 4, 64)`, the active length (R50). -/
def activeLen (p : Params) : Int := clamp (sext p.bufLen) 4 64

/-- `WC` as an integer (R21). -/
def cursor (s : State.At w) : Int := s.wc.toNat

/-- `CUR` as a signed integer (R24). -/
def seqCursor (s : State.At w) : Int := s.cur.toInt

/-- A write of `WC` (6 bits, R21). -/
def setCursor (s : State.At w) (x : Int) : State.At w := { s with wc := BitVec.ofInt 6 x }

/-- A write of `CUR` (32 bits signed, R24). -/
def setSeqCursor (s : State.At w) (x : Int) : State.At w := { s with cur := BitVec.ofInt 32 x }

/-- The tap address of stage `k`: `emod(WC - 1 - sext_32(P.BUFINDEX) * k, L)` (R169; C2, C3, C4). -/
def tapAddress (s : State.At w) (k : Stage) : Int :=
  emod (cursor s - 1 - sext s.params.bufIndex * k.num) (activeLen s.params)

/-- The table address of SEQ.READ: `clamp(start + CUR, 0, 127)` (R145). -/
def seqAddress (s : State.At w) : Fin 128 := clampIndex (sext s.params.seqStart + seqCursor s) 128 (by decide)

/-- The table of SEQ.READ: `clamp(P.SEQSEL, 0, 9)` (R146, D20). -/
def seqTable (p : Params) : Fin 10 := clampIndex (sext p.seqSel) 10 (by decide)

/-- `SCALE_ROM(i)` for a standard index, the empty list for any other (R100). -/
def stdEntries (c : Config w) (i : Int) : List F32 :=
  if h : 0 ≤ i ∧ i ≤ 15 then (c.scaleRom.std ⟨i.toNat, by omega⟩).entries else []

/-- `SCALE_ROM(i)` for an exotic index, which is exotic entry `i - 16`; the empty list for any other (R100, R112). -/
def exoEntries (c : Config w) (i : Int) : List F32 :=
  if h : 16 ≤ i ∧ i ≤ 132 then (c.scaleRom.exo ⟨(i - 16).toNat, by omega⟩).entries else []

end Sys2Proof.Machine
end

