-- ==== Sys2Proof/Machine/Flags.lean ====
section
/-! DEFINITION. The Boolean conditions of the core (spec/10_state.md R28): edge, hold, direction, and the window test of the
stepper. No operation sets a flag as a side effect of arithmetic. -/

namespace Sys2Proof.Machine

variable {w : Nat}

/-- `CLK_TH` (R9): the clock threshold 1.0. -/
def clockThreshold : F32 := f32One

/-- A rising edge: previous at or below the threshold, current above (R161). False when either is a NaN (R162). -/
def risingEdge (prev clk : F32) : Bool := fle prev clockThreshold && flt clockThreshold clk

/-- Hold is engaged iff `P.HOLD` is not 0 (R37, R93, D11). -/
def holdEngaged (p : Params) : Bool := decide (sext p.hold ≠ 0)

/-- `dir(DIR)`: +1 or -1 (R25, R93, R140). -/
def direction (dir : Bool) : Int := if dir then -1 else 1

/-- The cursor lies in the window `[0, P.SEQLEN)` (R140, R142). -/
def inWindow (s : State.At w) : Bool := decide (0 ≤ seqCursor s ∧ seqCursor s < sext s.params.seqLen)

end Sys2Proof.Machine
end

