-- ==== Sys2Proof/Machine/AsrBuffer.lean ====
section
/-! DEFINITION. The clock-edge detector, the ASR buffer and its taps (spec/44_asr.md): EDGE, ASR.WR, ASR.TAP1 to ASR.TAP4,
ASR.NORM. -/

namespace Sys2Proof.Machine

variable {w : Nat}

/-- EDGE as a state change (R161): the comparison reads the old `PREV`, the assignment follows it. -/
def detectEdge (s : State.At w) : State.At w :=
  { s with loc := { s.loc with edge := risingEdge s.prev s.loc.clk }, prev := s.loc.clk }

/-- ASR.WR (R163, R164): on an edge with hold not engaged, the raw sample goes to cell `WC` and `WC` moves on modulo `L`. -/
def writeSample (s : State.At w) : Result w :=
  if s.loc.edge && !holdEngaged s.params then
    match writeCell s.buf (cursor s) s.loc.raw with
    | .ok m => .next (setCursor { s with buf := m } (emod (cursor s + 1) (activeLen s.params)))
    | .error f => .fault f
  else .next s

/-- The tap of stage `k` (R165 to R169). -/
def readTap (k : Stage) (s : State.At w) : Result w :=
  match readCell s.buf (tapAddress s k) with
  | .ok v => .next (setTap s k v)
  | .error f => .fault f

/-- ASR.NORM as a state change (R170): `WC <- emod(WC, L)`. -/
def normalizeCursor (s : State.At w) : State.At w := setCursor s (emod (cursor s) (activeLen s.params))

/-- The meaning of EDGE. -/
def execEdge (s : State) : Result := .next (detectEdge s)

/-- The meaning of ASR.WR. -/
def execAsrWr (s : State) : Result := writeSample s

/-- The meaning of ASR.TAP1. -/
def execAsrTap1 (s : State) : Result := readTap .k1 s

/-- The meaning of ASR.TAP2. -/
def execAsrTap2 (s : State) : Result := readTap .k2 s

/-- The meaning of ASR.TAP3. -/
def execAsrTap3 (s : State) : Result := readTap .k3 s

/-- The meaning of ASR.TAP4. -/
def execAsrTap4 (s : State) : Result := readTap .k4 s

/-- The meaning of ASR.NORM. -/
def execAsrNorm (s : State) : Result := .next (normalizeCursor s)

end Sys2Proof.Machine
end

