-- ==== Sys2Proof/Machine/ByteBeat.lean ====
section
/-! DEFINITION. The ByteBeat synthesizer (spec/42_bytebeat.md): BB.EQ0 to BB.EQ15, BB.OOR. -/

namespace Sys2Proof.Machine

variable {w : Nat}

/-- Equation 0, "hope": `(t * (t >> 8)) & 0xFF`, the product taken in the width of the counter (R122). -/
def hope (t : BitVec w) : Byte := (t * (t >>> 8) &&& BitVec.ofNat w 0xFF).setWidth 8

/-- The byte of equation `i`: R122 for equation 0, `BB_EQ(i)` for the others (R123 to R137, D15). -/
def equation (c : Config w) (i : Fin 16) (t : BitVec w) (p0 p1 p2 : Byte) : Byte :=
  if i = 0 then hope t else c.bbEq i t p0 p1 p2

/-- The common output stage: `fsub(fdiv(i2f(b), 128.0), 1.0)` (R121). -/
def byteSample (b : Byte) : F32 := fsub (fdiv (i2f b.toNat) f32OneTwentyEight) f32One

/-- Run equation `i` on the counter and the three operands (R120). -/
def runEquation (c : Config w) (i : Fin 16) (s : State.At w) : Result w :=
  .next (setRaw s (byteSample
    (equation c i s.t (lowByte s.params.bbP0) (lowByte s.params.bbP1) (lowByte s.params.bbP2))))

/-- The out-of-range case: +0.0, the bank not consulted (R138). -/
def runOutOfRange (s : State.At w) : Result w := .next (setRaw s 0)

/-- `BYTEBEAT(P.BBEQ, T, p0, p1, p2)` (R120, R86). -/
def byteBeat (c : Config w) (s : State.At w) : Result w :=
  if h : 0 ≤ sext s.params.bbEq ∧ sext s.params.bbEq < 16 then
    runEquation c ⟨(sext s.params.bbEq).toNat, by omega⟩ s
  else runOutOfRange s

/-- The meaning of BB.EQ0 (R122). -/
def execBbEq0 (s : State) : Result := runEquation device 0 s

/-- The meaning of BB.EQ1 (R123). -/
def execBbEq1 (s : State) : Result := runEquation device 1 s

/-- The meaning of BB.EQ2 (R124). -/
def execBbEq2 (s : State) : Result := runEquation device 2 s

/-- The meaning of BB.EQ3 (R125). -/
def execBbEq3 (s : State) : Result := runEquation device 3 s

/-- The meaning of BB.EQ4 (R126). -/
def execBbEq4 (s : State) : Result := runEquation device 4 s

/-- The meaning of BB.EQ5 (R127). -/
def execBbEq5 (s : State) : Result := runEquation device 5 s

/-- The meaning of BB.EQ6 (R128). -/
def execBbEq6 (s : State) : Result := runEquation device 6 s

/-- The meaning of BB.EQ7 (R129). -/
def execBbEq7 (s : State) : Result := runEquation device 7 s

/-- The meaning of BB.EQ8 (R130). -/
def execBbEq8 (s : State) : Result := runEquation device 8 s

/-- The meaning of BB.EQ9 (R131). -/
def execBbEq9 (s : State) : Result := runEquation device 9 s

/-- The meaning of BB.EQ10 (R132). -/
def execBbEq10 (s : State) : Result := runEquation device 10 s

/-- The meaning of BB.EQ11 (R133). -/
def execBbEq11 (s : State) : Result := runEquation device 11 s

/-- The meaning of BB.EQ12 (R134). -/
def execBbEq12 (s : State) : Result := runEquation device 12 s

/-- The meaning of BB.EQ13 (R135). -/
def execBbEq13 (s : State) : Result := runEquation device 13 s

/-- The meaning of BB.EQ14 (R136). -/
def execBbEq14 (s : State) : Result := runEquation device 14 s

/-- The meaning of BB.EQ15 (R137). -/
def execBbEq15 (s : State) : Result := runEquation device 15 s

/-- The meaning of BB.OOR (R138). -/
def execBbOor (s : State) : Result := runOutOfRange s

end Sys2Proof.Machine
end

