-- ==== Sys2Proof/Machine/IntSeq.lean ====
section
/-! DEFINITION. The integer-sequence stepper (spec/43_intseq.md): SEQ.RESET, SEQ.LOOP, SEQ.PEND, SEQ.READ, SEQ.SCALE. -/

namespace Sys2Proof.Machine

variable {w : Nat}

/-- SEQ.RESET as a state change: cursor 0, direction +1 (R141). -/
def seqReset (s : State.At w) : State.At w := { s with cur := 0, dir := false }

/-- The cursor SEQ.LOOP goes to from `x`, with `SEQ_LOOP_WRAP = to_zero`: 0 at or beyond the length, `len - 1` below 0
(R143, C1). -/
def wrapToZero (x len : Int) : Int := if len ≤ x then 0 else if x < 0 then len - 1 else x

/-- The same with `SEQ_LOOP_WRAP = modulo` (R151). -/
def wrapModulo (x len : Int) : Int := if 1 ≤ len then emod x len else 0

/-- The loop wrap of the configuration (R10, D37). -/
def loopWrap (c : Config w) (x len : Int) : Int :=
  match c.loopWrap with
  | .toZero => wrapToZero x len
  | .modulo => wrapModulo x len

/-- SEQ.LOOP (R143): direction +1, advance by the stride, wrap. -/
def seqLoop (c : Config w) (s : State.At w) : Result w :=
  .next (setSeqCursor { s with dir := false }
    (loopWrap c (seqCursor s + sext s.params.seqStride) (sext s.params.seqLen)))

/-- The direction after the two flip tests of SEQ.PEND, upper first, on the cursor before the advance (R144, D18). -/
def pendDir (cur len : Int) (dir : Bool) : Bool :=
  if cur ≤ 0 then false else if len - 1 ≤ cur then true else dir

/-- SEQ.PEND as a state change (R144): flip, then advance by stride times direction, no wrap. -/
def seqPend (s : State.At w) : State.At w :=
  setSeqCursor { s with dir := pendDir (seqCursor s) (sext s.params.seqLen) s.dir }
    (seqCursor s + sext s.params.seqStride * direction (pendDir (seqCursor s) (sext s.params.seqLen) s.dir))

/-- SEQ.READ (R145, R146): the table value at the clamped address of the clamped table. -/
def seqRead (c : Config w) (s : State.At w) : Result w :=
  .next { s with loc := { s.loc with tv := c.seqRom (seqTable s.params) (seqAddress s) } }

/-- SEQ.SCALE (R147): the table value modulo `P.SEQMOD`, divided by 12. For a modulus of 0 or below the raw sample is any
value (D21), and so it is for a negative table value (R154, D22). -/
def seqScale (c : Config w) (s : State.At w) : Result w :=
  .next (if 1 ≤ sext s.params.seqMod ∧ 0 ≤ s.loc.tv then
      setRaw s (fdiv (i2f (emod s.loc.tv (sext s.params.seqMod))) f32Twelve)
    else drawRaw c s)

/-- The advance of the stepper: pendulum for `P.SEQDIR = 1`, else loop (R87, R148). -/
def seqAdvance (c : Config w) (s : State.At w) : Result w :=
  if sext s.params.seqDir = 1 then .next (seqPend s) else seqLoop c s

/-- The meaning of SEQ.RESET. -/
def execSeqReset (s : State) : Result := .next (seqReset s)

/-- The meaning of SEQ.LOOP. -/
def execSeqLoop (s : State) : Result := seqLoop device s

/-- The meaning of SEQ.PEND. -/
def execSeqPend (s : State) : Result := .next (seqPend s)

/-- The meaning of SEQ.READ. -/
def execSeqRead (s : State) : Result := seqRead device s

/-- The meaning of SEQ.SCALE. -/
def execSeqScale (s : State) : Result := seqScale device s

end Sys2Proof.Machine
end

