-- ==== Sys2Proof/Machine/Quantizer.lean ====
section
/-! DEFINITION. The Scale Library and the quantizer (spec/41_quantizer.md): QNT.STD, QNT.EXO, QNT.EMPTY. -/

namespace Sys2Proof.Machine

variable {w : Nat}

/-- `RESOLVE(i)` (R100). -/
def resolve (c : Config w) (i : Int) : List F32 :=
  if 0 ≤ i ∧ i ≤ 15 then stdEntries c i else if 16 ≤ i ∧ i ≤ 132 then exoEntries c i else []

/-- `QDomain(m)`: finite and `|m| ≤ 2^30` (R114). -/
def inDomain (m : F32) : Bool := isFinite m && decide (units m ≤ 2 ^ 30 * oneUnits)

/-- Step 1: the tap value times 12, rounded to an integer-valued sample (R103, R104). -/
def semitones (c : Config w) (v : F32) : F32 := fround c.qround (fmul v f32Twelve)

/-- Step 2: the semitone count with root and transpose added (R105). -/
def semitoneCount (p : Params) (m : F32) : Int := f2i m + sext p.root + sext p.transpose

/-- Step 3a: a scale entry rotated by `P.ROTATION` (R106, D27). -/
def rotated (p : Params) (e : F32) : F32 := fmod12 (fadd e (i2f (sext p.rotation)))

/-- Step 3b: the distance of a rotated entry from the pitch class (R107, D27). -/
def distance (r : F32) (pc : Int) : F32 := fmod12 (fabs (fsub r (i2f pc)))

/-- Step 3c: the search. `best` is the least distance so far with its rotated entry; an entry replaces it only if its own
distance is less, so the lowest index wins a tie (R108). No entry selected is +0.0 (R109, R110). -/
def select (p : Params) (pc : Int) : List F32 → Option (F32 × F32) → F32
  | [], none => 0
  | [], some (_, sel) => sel
  | e :: es, none => select p pc es (some (distance (rotated p e) pc, rotated p e))
  | e :: es, some (best, sel) =>
    if flt (distance (rotated p e) pc) best then select p pc es (some (distance (rotated p e) pc, rotated p e))
    else select p pc es (some (best, sel))

/-- Step 4: the quantized value from octave and selected entry (R109). -/
def reconstruct (oct : Int) (sel : F32) : F32 := fdiv (fadd (i2f (12 * oct)) sel) f32Twelve

/-- `QNT(v)` over the scale `S` (R113); none is "any value" (R114). -/
def quantize (c : Config w) (p : Params) (S : List F32) (v : F32) : Option F32 :=
  if inDomain (semitones c v) then
    some (reconstruct (floorDiv (semitoneCount p (semitones c v)) 12)
      (select p (emod (semitoneCount p (semitones c v)) 12) S none))
  else none

/-- Quantize the tap value of stage `k` over the scale `S`; outside the domain the result is a fresh free value (R114). -/
def quantizeStage (c : Config w) (S : List F32) (k : Stage) (s : State.At w) : Result w :=
  .next (match quantize c s.params S (s.loc.tap.get k) with
    | some q => setQ s k q
    | none => drawQ c s k)

/-- QNT.STD (R111): the scale is the standard scale `P.SCALE`. -/
def qntStd (c : Config w) (k : Stage) (s : State.At w) : Result w := quantizeStage c (stdEntries c (sext s.params.scale)) k s

/-- QNT.EXO (R112): the scale is the exotic scale `P.SCALE`. -/
def qntExo (c : Config w) (k : Stage) (s : State.At w) : Result w := quantizeStage c (exoEntries c (sext s.params.scale)) k s

/-- QNT.EMPTY (R110): the scale is the empty list. -/
def qntEmpty (c : Config w) (k : Stage) (s : State.At w) : Result w := quantizeStage c [] k s

/-- Phase 5 for stage `k`: the row of `P.SCALE` (R88). -/
def quantizeTap (c : Config w) (k : Stage) (s : State.At w) : Result w :=
  if 0 ≤ sext s.params.scale ∧ sext s.params.scale ≤ 15 then qntStd c k s
  else if 16 ≤ sext s.params.scale ∧ sext s.params.scale ≤ 132 then qntExo c k s
  else qntEmpty c k s

/-- The meaning of QNT.STD. -/
def execQntStd (k : Stage) (s : State) : Result := qntStd device k s

/-- The meaning of QNT.EXO. -/
def execQntExo (k : Stage) (s : State) : Result := qntExo device k s

/-- The meaning of QNT.EMPTY. -/
def execQntEmpty (k : Stage) (s : State) : Result := qntEmpty device k s

end Sys2Proof.Machine
end

