-- ==== Sys2Proof/Machine/StepEngine.lean ====
section
/-! DEFINITION. The Step Engine (spec/45_step_engine.md): the commands RST, LOADP, TICK, IDLE, the sources SRC.CV, SRC.BB,
SRC.SEQ, and OUT. -/

namespace Sys2Proof.Machine

variable {w : Nat}

/-! ## Phase 2: the sources -/

/-- SRC.CV (R184, R185): the stepper is reset and the raw sample is CV times gain. Which NaN a NaN product is, is free
(U24, log 11). -/
def srcCv (c : Config w) (s : State.At w) : Result w :=
  .next (if isNaN (fmul s.loc.cv (c.gainMap s.params.gain)) then
      { setRaw (seqReset s) (asNaN (c.draw s.draws)) with draws := s.draws + 1 }
    else setRaw (seqReset s) (fmul s.loc.cv (c.gainMap s.params.gain)))

/-- The advance of the ByteBeat counter, modulo `2^T_WIDTH` (R186, R23). -/
def advanceTime (s : State.At w) : State.At w := { s with t := s.t + 1 }

/-- SRC.BB (R186): the stepper is reset, the counter advances, the equation is evaluated; in the other order with
`ADVANCE_FIRST = false` (R153). -/
def srcBb (c : Config w) (s : State.At w) : Result w :=
  if c.advanceFirst then byteBeat c (advanceTime (seqReset s))
  else andThen (byteBeat c (seqReset s)) fun s1 => .next (advanceTime s1)

/-- SRC.SEQ (R187, R148): reset when the cursor is outside the window (R142), then advance, read, scale; read and scale come
before the advance with `ADVANCE_FIRST = false` (R153). -/
def srcSeq (c : Config w) (s : State.At w) : Result w :=
  let s0 := if inWindow s then s else seqReset s
  if c.advanceFirst then andThen (andThen (seqAdvance c s0) (seqRead c)) (seqScale c)
  else andThen (andThen (seqRead c s0) (seqScale c)) (seqAdvance c)

/-- Phase 2: the source `P.SRC` selects (R85, R189). -/
def source (c : Config w) (s : State.At w) : Result w :=
  if sext s.params.src = 1 then srcBb c s
  else if sext s.params.src = 2 then srcSeq c s
  else srcCv c s

/-! ## Phase 6 and the whole TICK -/

/-- OUT as a state change (R188): `OUT[k] <- q_k`. -/
def driveOutputs (s : State.At w) : State.At w := { s with out := s.loc.q }

/-- Phases 4: the four taps, in stage order (R189). -/
def readTaps (s : State.At w) : Result w :=
  andThen (andThen (andThen (readTap .k1 s) (readTap .k2)) (readTap .k3)) (readTap .k4)

/-- Phase 5: the four quantizations, in stage order (R189). -/
def quantizeTaps (c : Config w) (s : State.At w) : Result w :=
  andThen (andThen (andThen (quantizeTap c .k1 s) (quantizeTap c .k2)) (quantizeTap c .k3)) (quantizeTap c .k4)

/-- A TICK starts: its two samples are taken from the ports (R83). -/
def beginTick (cv clk : F32) (s : State.At w) : State.At w := { s with loc := { TickLocals.idle with cv := cv, clk := clk } }

/-- A TICK ends: its locals are dropped (R52). -/
def endTick (s : State.At w) : State.At w := { s with loc := TickLocals.idle }

/-- TICK (R182, R189): the six phases in order, each seeing the effects of those before it. -/
def tick (c : Config w) (cv clk : F32) (s : State.At w) : Result w :=
  andThen (andThen (andThen (andThen (source c (detectEdge (beginTick cv clk s))) writeSample) readTaps) (quantizeTaps c))
    fun s1 => .next (endTick (driveOutputs s1))

/-! ## LOADP and RST -/

/-- LOADP as a state change (R181): all nineteen registers together, then ASR.NORM with the new `L`. -/
def loadp (snapshot : Params) (s : State.At w) : State.At w := normalizeCursor { s with params := snapshot }

/-- RST as a state change (R180): the state of R54. The commands still waiting and the count of drawn values are not the
core's and stay (log 1, 3). -/
def rst (s : State.At w) : State.At w := { State.zero w with draws := s.draws, inbox := s.inbox }

/-! ## The meanings -/

/-- The meaning of IDLE: every register and cell keeps its value (R183). -/
def execIdle (s : State) : Result := .next s

/-- The meaning of LOADP. -/
def execLoadp (snapshot : Params) (s : State) : Result := .next (loadp snapshot s)

/-- The meaning of TICK. -/
def execTick (cv clk : F32) (s : State) : Result := tick device cv clk s

/-- The meaning of RST. -/
def execRst (s : State) : Result := .next (rst s)

/-- The meaning of SRC.CV. -/
def execSrcCv (s : State) : Result := srcCv device s

/-- The meaning of SRC.BB. -/
def execSrcBb (s : State) : Result := srcBb device s

/-- The meaning of SRC.SEQ. -/
def execSrcSeq (s : State) : Result := srcSeq device s

/-- The meaning of OUT. -/
def execOut (s : State) : Result := .next (driveOutputs s)

end Sys2Proof.Machine
end

