-- ==== Sys2Proof/Machine/Dispatch.lean ====
section
/-! DEFINITION. One arm for each instruction. -/

namespace Sys2Proof.Machine

def exec (i : Instr) (s : State) : Host.Outcome State Fault Refusal :=
  match i with
  | .idle => Sys2Proof.Machine.execIdle s
  | .loadp p => Sys2Proof.Machine.execLoadp p s
  | .tick cv clk => Sys2Proof.Machine.execTick cv clk s
  | .rst => Sys2Proof.Machine.execRst s
  | .srcCv => Sys2Proof.Machine.execSrcCv s
  | .srcBb => Sys2Proof.Machine.execSrcBb s
  | .srcSeq => Sys2Proof.Machine.execSrcSeq s
  | .bbEq0 => Sys2Proof.Machine.execBbEq0 s
  | .bbEq1 => Sys2Proof.Machine.execBbEq1 s
  | .bbEq2 => Sys2Proof.Machine.execBbEq2 s
  | .bbEq3 => Sys2Proof.Machine.execBbEq3 s
  | .bbEq4 => Sys2Proof.Machine.execBbEq4 s
  | .bbEq5 => Sys2Proof.Machine.execBbEq5 s
  | .bbEq6 => Sys2Proof.Machine.execBbEq6 s
  | .bbEq7 => Sys2Proof.Machine.execBbEq7 s
  | .bbEq8 => Sys2Proof.Machine.execBbEq8 s
  | .bbEq9 => Sys2Proof.Machine.execBbEq9 s
  | .bbEq10 => Sys2Proof.Machine.execBbEq10 s
  | .bbEq11 => Sys2Proof.Machine.execBbEq11 s
  | .bbEq12 => Sys2Proof.Machine.execBbEq12 s
  | .bbEq13 => Sys2Proof.Machine.execBbEq13 s
  | .bbEq14 => Sys2Proof.Machine.execBbEq14 s
  | .bbEq15 => Sys2Proof.Machine.execBbEq15 s
  | .bbOor => Sys2Proof.Machine.execBbOor s
  | .seqLoop => Sys2Proof.Machine.execSeqLoop s
  | .seqPend => Sys2Proof.Machine.execSeqPend s
  | .qntStd k => Sys2Proof.Machine.execQntStd k s
  | .qntExo k => Sys2Proof.Machine.execQntExo k s
  | .qntEmpty k => Sys2Proof.Machine.execQntEmpty k s
  | .edge => Sys2Proof.Machine.execEdge s
  | .seqReset => Sys2Proof.Machine.execSeqReset s
  | .seqRead => Sys2Proof.Machine.execSeqRead s
  | .seqScale => Sys2Proof.Machine.execSeqScale s
  | .asrWr => Sys2Proof.Machine.execAsrWr s
  | .asrTap1 => Sys2Proof.Machine.execAsrTap1 s
  | .asrTap2 => Sys2Proof.Machine.execAsrTap2 s
  | .asrTap3 => Sys2Proof.Machine.execAsrTap3 s
  | .asrTap4 => Sys2Proof.Machine.execAsrTap4 s
  | .out => Sys2Proof.Machine.execOut s
  | .asrNorm => Sys2Proof.Machine.execAsrNorm s

end Sys2Proof.Machine
end

