-- ==== Sys2Proof/WellFormed.lean ====
section
/-! DEFINITION. Which instructions have an encoding, and in which word (R80, R85 to R90, R95). Operands need no check:
every payload of every command is accepted (R83, R94) and a stage is one of four by its type. -/

namespace Sys2Proof

/-- The `format` of the instruction's table row (R95). -/
def Instr.format : Instr → Format
  | .idle | .loadp _ | .tick _ _ | .rst => .cmd
  | .srcCv | .srcBb | .srcSeq => .selSrc
  | .bbEq0 | .bbEq1 | .bbEq2 | .bbEq3 | .bbEq4 | .bbEq5 | .bbEq6 | .bbEq7 | .bbEq8 | .bbEq9 | .bbEq10 | .bbEq11
  | .bbEq12 | .bbEq13 | .bbEq14 | .bbEq15 | .bbOor => .selBbeq
  | .seqLoop | .seqPend => .selSeqdir
  | .qntStd _ | .qntExo _ | .qntEmpty _ => .selScale
  | .edge | .seqReset | .seqRead | .seqScale | .asrWr | .asrTap1 | .asrTap2 | .asrTap3 | .asrTap4 | .out => .phase
  | .asrNorm => .loadpSub

/-- The host can issue the instruction on the command port: it is one of the four commands (R80). -/
def Instr.issuable (i : Instr) : Bool := decide (i.format = .cmd)

/-- A 16-bit selector register chooses the instruction (R85 to R88). -/
def Instr.selectable (i : Instr) : Bool :=
  decide (i.format = .selSrc ∨ i.format = .selBbeq ∨ i.format = .selSeqdir ∨ i.format = .selScale)

/-- The instruction is decoded from bits; the rows that run at a fixed place are not (R90, R95). -/
def Instr.wellFormed (i : Instr) : Bool := i.issuable || i.selectable

end Sys2Proof
end

