-- ==== Sys2Proof/Decode.lean ====
section
/-! DEFINITION. Decoding the command port and the selector registers, and the encoder beside it (spec/30_encoding.md R80 to
R88, R95). -/

namespace Sys2Proof

/-! ## The LOADP payload (R82) -/

/-- Field `i` of the payload: `param_in[16*i + 15 : 16*i]` (R82). -/
def paramField (w : BitVec 304) (i : Nat) : ParamWord := w.extractLsb' (16 * i) 16

/-- The snapshot in a payload (R82, R84). -/
def Params.ofWord (w : BitVec 304) : Params where
  scale := paramField w 0
  root := paramField w 1
  transpose := paramField w 2
  rotation := paramField w 3
  bufIndex := paramField w 4
  bufLen := paramField w 5
  hold := paramField w 6
  gain := paramField w 7
  src := paramField w 8
  bbEq := paramField w 9
  bbP0 := paramField w 10
  bbP1 := paramField w 11
  bbP2 := paramField w 12
  seqSel := paramField w 13
  seqMod := paramField w 14
  seqStart := paramField w 15
  seqLen := paramField w 16
  seqDir := paramField w 17
  seqStride := paramField w 18

/-- The payload of a snapshot: `P[18]` in the highest bits, `P[0]` in the lowest (R82). -/
def Params.toWord (p : Params) : BitVec 304 :=
  p.seqStride ++ p.seqDir ++ p.seqLen ++ p.seqStart ++ p.seqMod ++ p.seqSel ++ p.bbP2 ++ p.bbP1 ++ p.bbP0 ++ p.bbEq
    ++ p.src ++ p.gain ++ p.hold ++ p.bufLen ++ p.bufIndex ++ p.rotation ++ p.transpose ++ p.root ++ p.scale

/-! ## The command port (R80, R81, R83) -/

/-- The command a sample of the ports carries: all four codes are defined (R80). -/
def decodePort (p : PortSample) : Instr :=
  match p.cmd.toNat with
  | 0 => .idle
  | 1 => .loadp (Params.ofWord p.paramIn)
  | 2 => .tick p.cvIn p.clkIn
  | _ => .rst

/-- The ports that issue a command; ports the command does not sample are 0. Only a command has one (R80). -/
def encodePort : Instr → Option PortSample
  | .idle => some ⟨0, 0, 0, 0⟩
  | .loadp p => some ⟨1, p.toWord, 0, 0⟩
  | .tick cv clk => some ⟨2, 0, cv, clk⟩
  | .rst => some ⟨3, 0, 0, 0⟩
  | _ => none

/-! ## The selector registers (R85 to R88) -/

/-- `P.SRC`: 1 ByteBeat, 2 the integer sequence, every other value CV (R85). -/
def decodeSrc (w : ParamWord) : Instr :=
  if w.toInt = 1 then .srcBb else if w.toInt = 2 then .srcSeq else .srcCv

/-- The ByteBeat equation with index `i`, for `i` in 0..15; every other index is BB.OOR (R86). -/
def equationRow (i : Int) : Instr :=
  match i with
  | 0 => .bbEq0
  | 1 => .bbEq1
  | 2 => .bbEq2
  | 3 => .bbEq3
  | 4 => .bbEq4
  | 5 => .bbEq5
  | 6 => .bbEq6
  | 7 => .bbEq7
  | 8 => .bbEq8
  | 9 => .bbEq9
  | 10 => .bbEq10
  | 11 => .bbEq11
  | 12 => .bbEq12
  | 13 => .bbEq13
  | 14 => .bbEq14
  | 15 => .bbEq15
  | _ => .bbOor

/-- `P.BBEQ` (R86). -/
def decodeBbeq (w : ParamWord) : Instr := equationRow w.toInt

/-- `P.SEQDIR`: 1 pendulum, every other value loop (R87). -/
def decodeSeqdir (w : ParamWord) : Instr := if w.toInt = 1 then .seqPend else .seqLoop

/-- `P.SCALE`, for stage `k`: 0..15 standard, 16..132 exotic, every other value empty (R88). -/
def decodeScale (k : Stage) (w : ParamWord) : Instr :=
  if 0 ≤ w.toInt ∧ w.toInt ≤ 15 then .qntStd k
  else if 16 ≤ w.toInt ∧ w.toInt ≤ 132 then .qntExo k
  else .qntEmpty k

/-- The rows a TICK runs under the parameters `p`, in phase order (R95): EDGE, the row of `P.SRC`, ASR.WR, the four taps, for
each stage the row of `P.SCALE`, OUT. The rows a source runs inside it are its own. -/
def tickRows (p : Params) : List Instr :=
  [.edge, decodeSrc p.src, .asrWr, .asrTap1, .asrTap2, .asrTap3, .asrTap4, decodeScale .k1 p.scale,
    decodeScale .k2 p.scale, decodeScale .k3 p.scale, decodeScale .k4 p.scale, .out]

/-- Why bits are not an instruction. -/
inductive DecodeError where
  /-- A PHASE or LOADP.SUB row is not decoded from bits (R95). -/
  | notDecodedFromBits
  /-- The command port is 2 bits and a selector register 16 bits wide; the word has more. -/
  | wordTooWide
  /-- No row of the opcode table is matched in a word of this width. -/
  | noWordOfThisWidth
deriving DecidableEq, Repr

/-- Decoding a word of a given format, total on all words (R95). `k` is the stage phase 5 is at; a CMD word stands for the
port with its payload at 0. -/
def decodeRow (f : Format) (k : Stage) (w : Nat) : Except DecodeError Instr :=
  match f with
  | .cmd => if w < 4 then .ok (decodePort ⟨BitVec.ofNat 2 w, 0, 0, 0⟩) else .error .wordTooWide
  | .selSrc => if w < 65536 then .ok (decodeSrc (BitVec.ofNat 16 w)) else .error .wordTooWide
  | .selBbeq => if w < 65536 then .ok (decodeBbeq (BitVec.ofNat 16 w)) else .error .wordTooWide
  | .selSeqdir => if w < 65536 then .ok (decodeSeqdir (BitVec.ofNat 16 w)) else .error .wordTooWide
  | .selScale => if w < 65536 then .ok (decodeScale k (BitVec.ofNat 16 w)) else .error .wordTooWide
  | .phase | .loadpSub => .error .notDecodedFromBits

/-- The word the table gives a row decoded from bits: its `match`, for a default row the representative word (R95). -/
def encodeWord : Instr → Option Nat
  | .idle => some 0x0
  | .loadp _ => some 0x1
  | .tick _ _ => some 0x2
  | .rst => some 0x3
  | .srcCv => some 0x0000
  | .srcBb => some 0x0001
  | .srcSeq => some 0x0002
  | .bbEq0 => some 0x0000
  | .bbEq1 => some 0x0001
  | .bbEq2 => some 0x0002
  | .bbEq3 => some 0x0003
  | .bbEq4 => some 0x0004
  | .bbEq5 => some 0x0005
  | .bbEq6 => some 0x0006
  | .bbEq7 => some 0x0007
  | .bbEq8 => some 0x0008
  | .bbEq9 => some 0x0009
  | .bbEq10 => some 0x000A
  | .bbEq11 => some 0x000B
  | .bbEq12 => some 0x000C
  | .bbEq13 => some 0x000D
  | .bbEq14 => some 0x000E
  | .bbEq15 => some 0x000F
  | .bbOor => some 0x0010
  | .seqLoop => some 0x0000
  | .seqPend => some 0x0001
  | .qntStd _ => some 0x0000
  | .qntExo _ => some 0x0010
  | .qntEmpty _ => some 0x0085
  | .edge | .seqReset | .seqRead | .seqScale | .asrWr | .asrTap1 | .asrTap2 | .asrTap3 | .asrTap4 | .out
  | .asrNorm => none

/-- The instruction in encoded form: a command as a sample of the ports, a selected row as its format, the stage it runs
for and its selector word. -/
inductive Encoded where
  | port (p : PortSample)
  | selector (f : Format) (k : Stage) (w : ParamWord)
deriving DecidableEq, Repr

/-- The stage a quantizer row runs for; the other rows have none, and stage 1 stands there. -/
def Instr.stage : Instr → Stage
  | .qntStd k | .qntExo k | .qntEmpty k => k
  | _ => .k1

/-- The encoder: none for a row that is not decoded from bits. -/
def encode (i : Instr) : Option Encoded :=
  if i.issuable then (encodePort i).map .port
  else (encodeWord i).map fun w => .selector i.format i.stage (BitVec.ofNat 16 w)

/-- The decoder on the encoded form. -/
def decode : Encoded → Except DecodeError Instr
  | .port p => .ok (decodePort p)
  | .selector f k w => decodeRow f k w.toNat

/-! ## A word without its format -/

/-- A 16-bit word of which it is not said which selector register holds it. The four selector formats share their words
(word 0 is SRC.CV, BB.EQ0, SEQ.LOOP and QNT.STD), so a word alone cannot name its row; this answers the first row in table
order whose `match`, `mask` or range holds the word, else the table's first default row (DESIGN CHOICE, log 13). -/
def decodeBareWord (w : ParamWord) : Instr :=
  if w.toNat ≤ 2 then decodeSrc w
  else if w.toNat ≤ 16 then decodeBbeq w
  else if w.toNat ≤ 133 then decodeScale .k1 w
  else decodeSrc w

/-- A table word of `nbits` bits, rejected by name: 8 bits hold the 2-bit command code with its payload at 0; 16 bits hold a
selector word. -/
def decodeBits (nbits w : Nat) : Except DecodeError Instr :=
  if nbits ≤ 8 then decodeRow .cmd .k1 w
  else if nbits = 16 then
    if w < 65536 then .ok (decodeBareWord (BitVec.ofNat 16 w)) else .error .wordTooWide
  else .error .noWordOfThisWidth

/-- What the decoder reads from a table word (log 13). -/
def decodeTableWord (nbits w : Nat) : Option Instr :=
  match decodeBits nbits w with
  | .ok i => some i
  | .error _ => none

end Sys2Proof
end

