-- ==== Sys2Proof/Machine/Fetch.lean ====
section
/-! DEFINITION. Where the next command comes from: the host's commands wait in `inbox`, oldest first (R80, R208; log 1). -/

namespace Sys2Proof.Machine

/-- The ports when the host drives no command: code 00, IDLE (D2). -/
def idlePorts : PortSample := ⟨0, 0, 0, 0⟩

/-- The ports the next step sees. -/
def nextPorts (s : State) : PortSample :=
  match s.inbox with
  | [] => idlePorts
  | p :: _ => p

/-- The state with the command taken. -/
def takeCommand (s : State) : State := { s with inbox := s.inbox.tail }

/-- The host issues a command ahead of those waiting. -/
def issue (p : PortSample) (s : State) : State := { s with inbox := p :: s.inbox }

/-- A TICK with both samples +0.0. -/
def silentTick : PortSample := ⟨2, 0, 0, 0⟩

/-- Make the next step run a selected row: the selector registers choose it and a TICK is issued (log 14). -/
def placeRow (i : Instr) (w : ParamWord) (s : State) : State :=
  match i.format with
  | .selSrc => issue silentTick { s with params := { s.params with src := w } }
  | .selBbeq => issue silentTick { s with params := { s.params with src := 1, bbEq := w } }
  | .selSeqdir => issue silentTick { s with params := { s.params with src := 2, seqDir := w } }
  | .selScale => issue silentTick { s with params := { s.params with scale := w } }
  | .cmd | .phase | .loadpSub => s

/-- Place a table word so that the next step runs its instruction (log 13, 14). -/
def placeWord (nbits w : Nat) (s : State) : State :=
  match decodeBits nbits w with
  | .error _ => s
  | .ok i => if i.issuable then issue ⟨BitVec.ofNat 2 w, 0, 0, 0⟩ s else placeRow i (BitVec.ofNat 16 w) s

end Sys2Proof.Machine
end

