-- ==== Sys2Proof/Machine/Step.lean ====
section
/-! DEFINITION. One step: the core takes the next command and executes it as one atomic transition (R12, R80). -/

namespace Sys2Proof.Machine

/-- One step. With no command waiting the ports carry IDLE (D2, log 1). -/
def step (s : State) : Host.Outcome State Fault Refusal := exec (decodePort (nextPorts s)) (takeCommand s)

/-- `s` with a table word placed so that the very next step runs its instruction (log 1, 13, 14). -/
def State.withFetchWord (s : State) (nbits w : Nat) : State := placeWord nbits w s

end Sys2Proof.Machine
end

