-- ==== Sys2Proof/Machine/Trace.lean ====
section
/-! DEFINITION. The trace notation for command sequences (spec/30_encoding.md R96, R97), as data: each line expands to the
samples of the command port it stands for. Decimal literals of samples are not parsed: a line holds the bit pattern
(log 18). -/

namespace Sys2Proof

/-- The index of a parameter register: `P[index]` (R84). -/
def ParamName.index : ParamName → Nat
  | .scale => 0
  | .root => 1
  | .transpose => 2
  | .rotation => 3
  | .bufIndex => 4
  | .bufLen => 5
  | .hold => 6
  | .gain => 7
  | .src => 8
  | .bbEq => 9
  | .bbP0 => 10
  | .bbP1 => 11
  | .bbP2 => 12
  | .seqSel => 13
  | .seqMod => 14
  | .seqStart => 15
  | .seqLen => 16
  | .seqDir => 17
  | .seqStride => 18

/-- The value of the register with this name. -/
def Params.get (p : Params) : ParamName → ParamWord
  | .scale => p.scale
  | .root => p.root
  | .transpose => p.transpose
  | .rotation => p.rotation
  | .bufIndex => p.bufIndex
  | .bufLen => p.bufLen
  | .hold => p.hold
  | .gain => p.gain
  | .src => p.src
  | .bbEq => p.bbEq
  | .bbP0 => p.bbP0
  | .bbP1 => p.bbP1
  | .bbP2 => p.bbP2
  | .seqSel => p.seqSel
  | .seqMod => p.seqMod
  | .seqStart => p.seqStart
  | .seqLen => p.seqLen
  | .seqDir => p.seqDir
  | .seqStride => p.seqStride

/-- The snapshot with one named register replaced. -/
def Params.set (p : Params) (v : ParamWord) : ParamName → Params
  | .scale => { p with scale := v }
  | .root => { p with root := v }
  | .transpose => { p with transpose := v }
  | .rotation => { p with rotation := v }
  | .bufIndex => { p with bufIndex := v }
  | .bufLen => { p with bufLen := v }
  | .hold => { p with hold := v }
  | .gain => { p with gain := v }
  | .src => { p with src := v }
  | .bbEq => { p with bbEq := v }
  | .bbP0 => { p with bbP0 := v }
  | .bbP1 => { p with bbP1 := v }
  | .bbP2 => { p with bbP2 := v }
  | .seqSel => { p with seqSel := v }
  | .seqMod => { p with seqMod := v }
  | .seqStart => { p with seqStart := v }
  | .seqLen => { p with seqLen := v }
  | .seqDir => { p with seqDir := v }
  | .seqStride => { p with seqStride := v }

end Sys2Proof

namespace Sys2Proof.Machine

/-- The `NAME=value` items of a line; a later item for the same name wins. -/
abbrev Assignments := List (ParamName × Int)

/-- A snapshot with the named registers replaced (R96, R97). -/
def assign (p : Params) : Assignments → Params
  | [] => p
  | (n, v) :: rest => assign (p.set (BitVec.ofInt 16 v) n) rest

/-- A line of a trace (R96) or a pseudo-command of one line (R97). -/
inductive TraceLine where
  | rst
  | loadp (items : Assignments)
  | tick (cv clk : F32)
  | idle
  | setp (items : Assignments)
  | pulse (cv : F32)
  | low (cv : F32)
deriving DecidableEq, Repr

/-- A line, or lines enclosed in `REPEAT n` or `BLOCK n` (R97). -/
inductive TraceItem where
  | line (l : TraceLine)
  | repeated (n : Nat) (body : List TraceLine)
  | block (n : Nat) (body : List TraceLine)
deriving DecidableEq, Repr

def rstPorts : PortSample := ⟨3, 0, 0, 0⟩
def loadpPorts (p : Params) : PortSample := ⟨1, p.toWord, 0, 0⟩
def tickPorts (cv clk : F32) : PortSample := ⟨2, 0, cv, clk⟩

/-- A high clock of the notation, 2.0 (R97, D35). -/
def clockHigh : F32 := 0x40000000#32

/-- A low clock of the notation, 0.0 (R97, D35). -/
def clockLow : F32 := 0#32

/-- The commands of one line, and the last loaded snapshot after it; `last` is the one before it, all zero after `RST`
(R97). -/
def expandLine (last : Params) : TraceLine → List PortSample × Params
  | .rst => ([rstPorts], Params.zero)
  | .loadp items => ([loadpPorts (assign Params.zero items)], assign Params.zero items)
  | .tick cv clk => ([tickPorts cv clk], last)
  | .idle => ([⟨0, 0, 0, 0⟩], last)
  | .setp items => ([loadpPorts (assign last items)], assign last items)
  | .pulse cv => ([tickPorts cv clockHigh, tickPorts cv clockLow], last)
  | .low cv => ([tickPorts cv clockLow], last)

/-- The commands of a list of lines. -/
def expandLines (last : Params) : List TraceLine → List PortSample × Params
  | [] => ([], last)
  | l :: rest =>
    ((expandLine last l).1 ++ (expandLines (expandLine last l).2 rest).1, (expandLines (expandLine last l).2 rest).2)

/-- The commands of an item: `REPEAT` writes its lines out `n` times, `BLOCK` marks them only (R97). -/
def expandItem (last : Params) : TraceItem → List PortSample × Params
  | .line l => expandLine last l
  | .repeated n body => expandLines last (List.replicate n body).flatten
  | .block _ body => expandLines last body

/-- The commands of a trace. -/
def expandTrace (last : Params) : List TraceItem → List PortSample
  | [] => []
  | i :: rest => (expandItem last i).1 ++ expandTrace (expandItem last i).2 rest

end Sys2Proof.Machine
end

