-- ==== Sys2Proof/Safety.lean ====
section
/-! DEFINITION. The terms statements about the machine use: the number a sample stands for, correct rounding, the invariant
of a run (spec/10_state.md R55, R56), and rule R189 written out as one piece. -/

namespace Sys2Proof.Machine

/-! ## Samples as numbers -/

/-- The number a finite sample stands for (R92); an infinity is given `±2^128`, beyond every finite sample. -/
def valueOf (x : F32) : ℚ := (sunits x : ℚ) / 2 ^ 149

/-- `r` is the exact number `y` rounded to a sample, to nearest, ties to even (R17). -/
def IsRounded (r : F32) (y : ℚ) : Prop :=
  isFinite r = true ∧
  (∀ f : F32, isFinite f = true → |valueOf r - y| ≤ |valueOf f - y|) ∧
  (∀ f : F32, isFinite f = true → valueOf f ≠ valueOf r → |valueOf f - y| = |valueOf r - y| → r.toNat % 2 = 0)

/-- Numbers below this in magnitude round to a finite sample: half a unit above the largest one. -/
def overflowBound : ℚ := (2 ^ 25 - 1) * 2 ^ 103

/-! ## The invariant of a run -/

/-- What holds after every command (R21, R29, R52, R55, R56): the write cursor lies in the active window, the buffer is in its
canonical form, the sequence cursor is in the range R56 derives, and no locals of a TICK are left. -/
abbrev Inv (s : State) : Prop :=
  cursor s < activeLen s.params ∧ s.buf.wf = true ∧ (-32769 ≤ seqCursor s ∧ seqCursor s ≤ 65534) ∧
    s.loc = TickLocals.idle

/-- The step completes: it neither faults nor is refused (R200, R206). -/
def Completes (o : Host.Outcome State Fault Refusal) : Prop := ∃ t, o = .next t

/-! ## Rule R189 in one piece -/

/-- What phase 2 leaves: the raw sample, `T`, `CUR`, `DIR`, and the count of drawn values. -/
structure SourceResult where
  raw : F32
  t : Time
  cur : Int
  dir : Bool
  draws : Nat
deriving DecidableEq, Repr

/-- `SRC.CV` in R189: `SEQ.RESET; raw = fmul(cv, GAIN_MAP(P.GAIN))`. -/
def ruleCv (cv : F32) (s : State) : SourceResult :=
  if isNaN (fmul cv (i2f s.params.gain.toInt)) then
    ⟨asNaN (Config.freeSample s.draws), s.t, 0, false, s.draws + 1⟩
  else ⟨fmul cv (i2f s.params.gain.toInt), s.t, 0, false, s.draws⟩

/-- The ByteBeat sample at counter value `t` (R120, R121, R122, R138). -/
def ruleByteBeat (p : Params) (t : Time) : F32 :=
  if 0 ≤ p.bbEq.toInt ∧ p.bbEq.toInt ≤ 15 then
    byteSample
      (if p.bbEq.toInt = 0 then hope t
       else Config.openBbEq (Fin.ofNat 16 p.bbEq.toInt.toNat) t (p.bbP0.setWidth 8) (p.bbP1.setWidth 8) (p.bbP2.setWidth 8))
  else 0

/-- `SRC.BB` in R189: `SEQ.RESET; T <- (T + 1) mod 2^32; raw = BYTEBEAT(...)`. -/
def ruleBb (s : State) : SourceResult := ⟨ruleByteBeat s.params (s.t + 1), s.t + 1, 0, false, s.draws⟩

/-- The cursor and direction the stepper starts a TICK from (R142, R148). -/
def ruleStart {w : Nat} (s : State.At w) : Int × Bool :=
  if 0 ≤ s.cur.toInt ∧ s.cur.toInt < s.params.seqLen.toInt then (s.cur.toInt, s.dir) else (0, false)

/-- The advance from cursor `x` and direction `d` (R143, R144). -/
def ruleAdvance (p : Params) (x : Int) (d : Bool) : Int × Bool :=
  if p.seqDir.toInt = 1 then
    let d1 := if x ≥ p.seqLen.toInt - 1 then true else d
    let d2 := if x ≤ 0 then false else d1
    (x + p.seqStride.toInt * (if d2 then -1 else 1), d2)
  else
    let c := x + p.seqStride.toInt
    (if c ≥ p.seqLen.toInt then 0 else if c < 0 then p.seqLen.toInt - 1 else c, false)

/-- The table value read at cursor `x` (R145, R146). -/
def ruleRead (p : Params) (x : Int) : Int :=
  (Config.openSeqRom (Fin.ofNat 10 (clamp p.seqSel.toInt 0 9).toNat)
    (Fin.ofNat 128 (clamp (p.seqStart.toInt + x) 0 127).toNat)).toNat

/-- `SRC.SEQ` in R189. -/
def ruleSeq (s : State) : SourceResult :=
  let start := ruleStart s
  let after := ruleAdvance s.params start.1 start.2
  let tv := ruleRead s.params after.1
  if 1 ≤ s.params.seqMod.toInt then
    ⟨fdiv (i2f (tv % s.params.seqMod.toInt)) f32Twelve, s.t, after.1, after.2, s.draws⟩
  else ⟨Config.freeSample s.draws, s.t, after.1, after.2, s.draws + 1⟩

/-- Phase 2 of R189. -/
def ruleSource (cv : F32) (s : State) : SourceResult :=
  if s.params.src.toInt = 1 then ruleBb s else if s.params.src.toInt = 2 then ruleSeq s else ruleCv cv s

/-- One quantized value of phase 5 and the count of drawn values after it (R113, R114). -/
def ruleQuantize (p : Params) (v : F32) (n : Nat) : F32 × Nat :=
  match quantize device p (resolve device p.scale.toInt) v with
  | some q => (q, n)
  | none => (Config.freeSample n, n + 1)

/-- The state `t` that R189 gives for a TICK from `s`, field by field. -/
def RuleTick (cv clk : F32) (s t : State) : Prop :=
  let L := clamp s.params.bufLen.toInt 4 64
  let B := s.params.bufIndex.toInt
  let edge := fle s.prev f32One && flt f32One clk
  let src := ruleSource cv s
  let writes := edge && decide (s.params.hold = 0)
  let cell := fun a : Nat => if writes = true ∧ a = s.wc.toNat then src.raw else s.buf.read a
  let wc : Int := if writes then ((s.wc.toNat : Int) + 1) % L else s.wc.toNat
  let tap := fun k : Int => cell ((wc - 1 - B * k) % L).toNat
  let q1 := ruleQuantize s.params (tap 1) src.draws
  let q2 := ruleQuantize s.params (tap 2) q1.2
  let q3 := ruleQuantize s.params (tap 3) q2.2
  let q4 := ruleQuantize s.params (tap 4) q3.2
  (∀ a, t.buf.read a = cell a) ∧ (t.wc.toNat : Int) = wc ∧ t.prev = clk ∧ t.t = src.t ∧ t.cur.toInt = src.cur ∧
    t.dir = src.dir ∧ t.params = s.params ∧ t.out = ⟨q1.1, q2.1, q3.1, q4.1⟩ ∧ t.loc = TickLocals.idle ∧
    t.draws = q4.2 ∧ t.inbox = s.inbox

/-! ## Single rows -/

/-- What R123 to R137 give equation `n` run as instruction `i`: a finite raw sample, exactly `b/128 - 1` for the byte `b` of the
open formula `BB_EQ(n)` on the counter and the three low operand bytes, and nothing else changed. -/
def EquationAnswers (i : Instr) (n : Fin 16) : Prop :=
  ∀ s : State, ∃ r, exec i s = .next { s with loc := { s.loc with raw := r } } ∧ isFinite r = true ∧
    valueOf r = ((Config.openBbEq n s.t (s.params.bbP0.extractLsb' 0 8) (s.params.bbP1.extractLsb' 0 8)
      (s.params.bbP2.extractLsb' 0 8)).toNat : ℚ) / 128 - 1

/-- The conclusion of R115 for scale `S` and semitone count `n`: the quantized value is rebuilt from the rotated value of the
entry at the lowest index among those at least distance. -/
def FirstNearest (p : Params) (S : List F32) (n : Int) (q : F32) : Prop :=
  ∃ (j : Nat) (e : F32), S[j]? = some e ∧
    q = fdiv (fadd (i2f (12 * (n / 12))) (rotated p e)) f32Twelve ∧
    (∀ (i : Nat) (e' : F32), S[i]? = some e' →
      fle (distance (rotated p e) (n % 12)) (distance (rotated p e') (n % 12)) = true ∧
      (i < j → flt (distance (rotated p e) (n % 12)) (distance (rotated p e') (n % 12)) = true))

/-! ## Runs of rows, of TICKs and of the stepper -/

/-- Run the instructions in order. -/
def inOrder (s : State) : List Instr → Result
  | [] => .next s
  | i :: rest => andThen (exec i s) fun t => inOrder t rest

/-- A run of TICKs, one for each pair of samples. -/
def runTicks (s : State) : List (F32 × F32) → Result
  | [] => .next s
  | (cv, clk) :: rest => andThen (exec (.tick cv clk) s) fun t => runTicks t rest

/-- The cursor of a pendulum of window length `len` and stride 1 after `n` advances from 0 (R152). -/
def pendulumCursor (len n : Nat) : Nat :=
  if n % (2 * (len - 1)) ≤ len - 1 then n % (2 * (len - 1)) else 2 * (len - 1) - n % (2 * (len - 1))

/-- `n` advances of SEQ.LOOP in a configuration. -/
def runLoop {w : Nat} (c : Config w) (s : State.At w) : Nat → Result w
  | 0 => .next s
  | n + 1 => andThen (runLoop c s n) (seqLoop c)

end Sys2Proof.Machine
end

