-- ==== Sys2Proof/Certificates/Slice0/Obligations.lean ====
section
/-! DEFINITION. The statements for the provers. `exec` and `step` are the machine's, in its configuration `device`; where a
statement says "every configuration" it is about the operation `exec` calls, for every
`Config` and every counter width `w` (R10). Locals of a TICK
(`loc`, log 2), the draw counter (`draws`, log 3) and the waiting commands (`inbox`, log 1) are the model's own fields. -/

open Sys2Proof Sys2Proof.Machine

/-! ## Decoding, encoding, stepping -/

/-- R80, R81, R208 and log 1: a step takes the oldest waiting command and is `exec` of what the decoder reads from its
ports; what the decoder reads is always a command; with none waiting it is IDLE. -/
def Obligations.StepRunsTheDecodedCommand : Prop :=
  ∀ s : State,
    (s.inbox = [] → step s = exec .idle s) ∧
    (∀ (p : PortSample) (rest : List PortSample), s.inbox = p :: rest →
      (decodePort p).issuable = true ∧ step s = exec (decodePort p) { s with inbox := rest }) ∧
    (∀ (i : Instr) (p : PortSample) (rest : List PortSample), s.inbox = p :: rest → encodePort i = some p →
      step s = exec i { s with inbox := rest })

/-- R80, R82, R85 to R88, R95: words written out from the spec's encodings. The LOADP payload is program P4's last one. -/
def Obligations.WordsDecodeAsTheTablesSay : Prop :=
  decodePort ⟨0b00#2, 0, 0, 0⟩ = .idle ∧
  decodePort ⟨0b01#2, 0x0000000000000000000000000000000000000000000700020000006400010000000000000000#304, 0, 0⟩ =
    .loadp { Params.zero with src := 7, gain := 2, bufLen := 100, bufIndex := 1 } ∧
  decodePort ⟨0b10#2, 0, 0x3E800000#32, 0x40000000#32⟩ = .tick 0x3E800000#32 0x40000000#32 ∧
  decodePort ⟨0b11#2, 0, 0, 0⟩ = .rst ∧
  decodeRow .selSrc .k1 0x0002 = .ok .srcSeq ∧ decodeRow .selSrc .k1 0x0007 = .ok .srcCv ∧
  decodeRow .selBbeq .k1 0x000F = .ok .bbEq15 ∧ decodeRow .selBbeq .k1 0xFFFF = .ok .bbOor ∧
  decodeRow .selSeqdir .k1 0x0001 = .ok .seqPend ∧ decodeRow .selSeqdir .k1 0x0002 = .ok .seqLoop ∧
  decodeRow .selScale .k3 0x000F = .ok (.qntStd .k3) ∧ decodeRow .selScale .k3 0x0084 = .ok (.qntExo .k3) ∧
  decodeRow .selScale .k3 0x0085 = .ok (.qntEmpty .k3) ∧ decodeRow .selScale .k3 0xFFFB = .ok (.qntEmpty .k3)

/-- R80 to R83, R85 to R88: for every instruction decoded from bits, with every payload, decoding its encoding gives it back;
a PHASE or LOADP.SUB row has no encoding; and no bit of a LOADP payload is dropped in the other direction either. -/
def Obligations.DecodeOfEncodeIsTheInstruction : Prop :=
  (∀ i : Instr, i.wellFormed = true → ∃ e, encode i = some e ∧ decode e = .ok i) ∧
  (∀ i : Instr, i.wellFormed = false → encode i = none) ∧
  (∀ w : BitVec 304, (Params.ofWord w).toWord = w)

/-! ## Whole-machine rules -/

/-- R206: every instruction from every state has a next state, and so has every step. In particular no buffer access ever
leaves the 64 cells (R65). -/
def Obligations.EveryCommandFromEveryStateHasANextState : Prop :=
  (∀ (i : Instr) (s : State), Completes (exec i s)) ∧ ∀ s : State, Completes (step s)

/-- R55 and R56 at reset (R54). -/
def Obligations.ResetMeetsTheInvariant : Prop := Inv State.reset

/-- R55, R56: from every state that meets the invariant every step gives one that meets it. That the buffer is a canonical
list and that no locals are left is the model's own form (log 2, 4). -/
def Obligations.EveryStepKeepsTheInvariant : Prop :=
  ∀ s t : State, Inv s → step s = .next t → Inv t

/-- R21 to R26, R29, R30: who writes each register. Whatever instruction runs, a register none of whose writers it is keeps
its value; the waiting commands are no instruction's to change. -/
def Obligations.OnlyItsWritersChangeARegister : Prop :=
  ∀ (i : Instr) (s t : State), exec i s = .next t →
    ((∀ cv clk, i ≠ .tick cv clk) → i ≠ .rst →
      (i ≠ .asrWr → t.buf = s.buf) ∧
      (i ≠ .asrWr → i ≠ .asrNorm → (∀ p, i ≠ .loadp p) → t.wc = s.wc) ∧
      (i ≠ .edge → t.prev = s.prev) ∧
      (i ≠ .srcBb → t.t = s.t) ∧
      (i ≠ .seqReset → i ≠ .seqLoop → i ≠ .seqPend → i ≠ .srcCv → i ≠ .srcBb → i ≠ .srcSeq →
        t.cur = s.cur ∧ t.dir = s.dir) ∧
      (i ≠ .out → t.out = s.out)) ∧
    ((∀ p, i ≠ .loadp p) → i ≠ .rst → t.params = s.params) ∧
    t.inbox = s.inbox

/-- R23, R209: the counter advances by one in a TICK with `P.SRC = 1`, is cleared by RST, and moves in no other command. -/
def Obligations.TimeCounterCountsByteBeatTicks : Prop :=
  ∀ (s : State) (cv clk : F32) (p : Params),
    (∃ t, exec (.tick cv clk) s = .next t ∧ t.t.toNat = if s.params.src.toInt = 1 then (s.t.toNat + 1) % 2 ^ 32 else s.t.toNat) ∧
    (∃ t, exec (.loadp p) s = .next t ∧ t.t = s.t) ∧
    (∃ t, exec .idle s = .next t ∧ t.t = s.t) ∧
    (∃ t, exec .rst s = .next t ∧ t.t = 0)

/-! ## Commands -/

/-- R141, R188: SEQ.RESET clears cursor and direction and nothing else; OUT drives the four outputs with the four quantized
values and nothing else. -/
def Obligations.SeqResetAndOutAnswer : Prop :=
  ∀ s : State,
    exec .seqReset s = .next { s with cur := 0, dir := false } ∧
    exec .out s = .next { s with out := s.loc.q }

/-- R183: IDLE keeps every register and cell, and any number of IDLEs anywhere in a command sequence changes no later result:
running all waiting commands gives the same state as running them with the IDLEs taken out. -/
def Obligations.IdlesChangeNoLaterResult : Prop :=
  ∀ s : State,
    exec .idle s = .next s ∧
    Sys2Proof.core.run s.inbox.length s =
      Sys2Proof.core.run (s.inbox.filter fun p => decide (p.cmd ≠ 0)).length
        { s with inbox := s.inbox.filter fun p => decide (p.cmd ≠ 0) }

/-- R180, R54: after RST every cell is +0.0, every register 0, `L` is 4; what is not the core's (commands waiting, count of
drawn values) stays, and the result is `State.reset` but for those two: the model's choice (log 1, 3, 19). -/
def Obligations.RstGivesTheResetState : Prop :=
  ∀ s : State, ∃ t, exec .rst s = .next t ∧
    (∀ a, t.buf.read a = 0) ∧ t.wc = 0 ∧ t.prev = 0 ∧ t.t = 0 ∧ t.cur = 0 ∧ t.dir = false ∧
    (∀ n, t.params.get n = 0) ∧ (∀ k, t.out.get k = 0) ∧ activeLen t.params = 4 ∧
    t.inbox = s.inbox ∧ t.draws = s.draws ∧ t = { State.reset with inbox := s.inbox, draws := s.draws }

/-- R181, R82, R170: LOADP loads all nineteen registers, each from its own 16 bits of the payload, and reduces the write
cursor modulo the new active length; nothing else changes. -/
def Obligations.LoadpLoadsEveryRegister : Prop :=
  ∀ (s : State) (w : BitVec 304) (cv clk : F32), ∃ t,
    exec (decodePort ⟨1, w, cv, clk⟩) s = .next t ∧
    (∀ n : ParamName, t.params.get n = w.extractLsb' (16 * n.index) 16) ∧
    (t.wc.toNat : Int) = s.wc.toNat % max 4 (min 64 (w.extractLsb' 80 16).toInt) ∧
    t = { s with params := t.params, wc := t.wc }

/-- R181: a LOADP with the values already held changes nothing, when the write cursor is in the window. -/
def Obligations.LoadpOfTheHeldSnapshotChangesNothing : Prop :=
  ∀ s : State, cursor s < activeLen s.params → exec (.loadp s.params) s = .next s

/-- R189: TICK is the pseudocode of R189 read as one piece, field by field, for every state whose buffer is in its canonical
form and every pair of samples. Free values are the draws of log 3, taken as log 8 to 11 say: the model's choice of form. -/
def Obligations.TickPerformsRuleR189 : Prop :=
  ∀ (cv clk : F32) (s : State), s.buf.wf = true → ∃ t, exec (.tick cv clk) s = .next t ∧ RuleTick cv clk s t

/-- R95, R182: a TICK runs the rows of the opcode table in phase order: EDGE, the row `P.SRC` selects, ASR.WR, the four taps,
for each stage the row `P.SCALE` selects, OUT; then its locals are dropped (R52). -/
def Obligations.TickRunsTheSelectedRowsInPhaseOrder : Prop :=
  ∀ (cv clk : F32) (s : State),
    exec (.tick cv clk) s =
      andThen (inOrder { s with loc := { TickLocals.idle with cv := cv, clk := clk } } (tickRows s.params))
        fun t => .next { t with loc := TickLocals.idle }

/-- R186, R148, R86, R87, R95: SRC.BB is SEQ.RESET, the advance of `T`, and the row `P.BBEQ` selects; SRC.SEQ is SEQ.RESET when the
cursor is outside the window, then the row `P.SEQDIR` selects, then SEQ.READ, then SEQ.SCALE. -/
def Obligations.SourcesRunTheirSelectedRows : Prop :=
  ∀ s : State,
    exec .srcBb s =
      andThen (andThen (exec .seqReset s) fun t => .next { t with t := t.t + 1 }) (exec (decodeBbeq s.params.bbEq)) ∧
    exec .srcSeq s =
      andThen (andThen (andThen
        (if 0 ≤ s.cur.toInt ∧ s.cur.toInt < s.params.seqLen.toInt then .next s else exec .seqReset s)
        (exec (decodeSeqdir s.params.seqDir))) (exec .seqRead)) (exec .seqScale)

/-! ## Clock edge, buffer, taps -/

/-- R161, R162: the edge is "previous at or below 1.0 and current above 1.0" on the numbers the samples stand for, false when
either is a NaN; `PREV` takes the clock sample in every case; nothing else changes. -/
def Obligations.EdgeIsARiseThroughTheThreshold : Prop :=
  ∀ s : State, ∃ e : Bool,
    exec .edge s = .next { s with prev := s.loc.clk, loc := { s.loc with edge := e } } ∧
    (e = true ↔ isNaN s.prev = false ∧ isNaN s.loc.clk = false ∧ valueOf s.prev ≤ 1 ∧ 1 < valueOf s.loc.clk)

/-- R162 item 6: after a TICK with a NaN clock sample neither that TICK nor the next writes the buffer, whatever their samples. -/
def Obligations.NaNClockBlindsTwoTicks : Prop :=
  ∀ (s t u : State) (cv cv' clk clk' : F32), isNaN clk = true →
    exec (.tick cv clk) s = .next t → exec (.tick cv' clk') t = .next u →
    t.buf = s.buf ∧ t.wc = s.wc ∧ u.buf = s.buf ∧ u.wc = s.wc

/-- R162 item 3, R225: after a TICK whose clock sample is above 1.0 the next TICK writes nothing. -/
def Obligations.HighClockGivesNoSecondEdge : Prop :=
  ∀ (s t u : State) (cv cv' clk clk' : F32), isNaN clk = false → 1 < valueOf clk →
    exec (.tick cv clk) s = .next t → exec (.tick cv' clk') t = .next u →
    u.buf = t.buf ∧ u.wc = t.wc

/-- R164, R224: while hold is engaged a TICK writes no cell and moves no cursor, and the edge is used up all the same. -/
def Obligations.HoldSuppressesTheWriteAndUsesUpTheEdge : Prop :=
  ∀ (s t : State) (cv clk : F32), s.params.hold ≠ 0 → exec (.tick cv clk) s = .next t →
    t.buf = s.buf ∧ t.wc = s.wc ∧ t.prev = clk

/-- R164 and the end-to-end property W7: while hold is engaged the clock sample reaches nothing but `PREV`. -/
def Obligations.UnderHoldTheClockReachesOnlyPrev : Prop :=
  ∀ (s t t' : State) (cv clk clk' : F32), s.params.hold ≠ 0 →
    exec (.tick cv clk) s = .next t → exec (.tick cv clk') s = .next t' → t' = { t with prev := clk' }

/-- R163, R164: with an edge and hold not engaged ASR.WR stores the raw sample bit for bit in cell `WC`, leaves every other
cell, and moves `WC` on modulo the active length; otherwise nothing at all changes. That the buffer stays in its canonical
form is about the model's own form of it (log 4). -/
def Obligations.AsrWrStoresTheRawSample : Prop :=
  ∀ s : State, s.buf.wf = true →
    (s.loc.edge = true → s.params.hold = 0 → ∃ t, exec .asrWr s = .next t ∧
      (∀ a, t.buf.read a = if a = s.wc.toNat then s.loc.raw else s.buf.read a) ∧ t.buf.wf = true ∧
      (t.wc.toNat : Int) = ((s.wc.toNat : Int) + 1) % max 4 (min 64 s.params.bufLen.toInt) ∧
      t = { s with buf := t.buf, wc := t.wc }) ∧
    ((s.loc.edge = false ∨ s.params.hold ≠ 0) → exec .asrWr s = .next s)

/-- R165 to R169: the tap of stage `k` reads the cell `P.BUFINDEX * k` behind the newest, an address of the window that is
congruent to `WC - 1 - P.BUFINDEX * k` modulo the active length; nothing else changes. -/
def Obligations.TapsReadBehindTheCursor : Prop :=
  ∀ s : State, ∃ a1 a2 a3 a4 : Nat,
    (a1 < activeLen s.params ∧ activeLen s.params ∣ (s.wc.toNat : Int) - 1 - s.params.bufIndex.toInt - a1 ∧
      exec .asrTap1 s = .next { s with loc := { s.loc with tap := { s.loc.tap with s1 := s.buf.read a1 } } }) ∧
    (a2 < activeLen s.params ∧ activeLen s.params ∣ (s.wc.toNat : Int) - 1 - s.params.bufIndex.toInt * 2 - a2 ∧
      exec .asrTap2 s = .next { s with loc := { s.loc with tap := { s.loc.tap with s2 := s.buf.read a2 } } }) ∧
    (a3 < activeLen s.params ∧ activeLen s.params ∣ (s.wc.toNat : Int) - 1 - s.params.bufIndex.toInt * 3 - a3 ∧
      exec .asrTap3 s = .next { s with loc := { s.loc with tap := { s.loc.tap with s3 := s.buf.read a3 } } }) ∧
    (a4 < activeLen s.params ∧ activeLen s.params ∣ (s.wc.toNat : Int) - 1 - s.params.bufIndex.toInt * 4 - a4 ∧
      exec .asrTap4 s = .next { s with loc := { s.loc with tap := { s.loc.tap with s4 := s.buf.read a4 } } })

/-- R170: ASR.NORM brings the cursor into the window by a multiple of the active length, does not move one that is in it, and
changes nothing else; it runs inside every LOADP once the registers are loaded. -/
def Obligations.AsrNormBringsTheCursorIntoTheWindow : Prop :=
  (∀ (s : State) (p : Params), exec (.loadp p) s = exec .asrNorm { s with params := p }) ∧
  ∀ s : State, ∃ t, exec .asrNorm s = .next t ∧ cursor t < activeLen s.params ∧
    activeLen s.params ∣ cursor s - cursor t ∧ (cursor s < activeLen s.params → t = s) ∧ t = { s with wc := t.wc }

/-- R173, W3: after two writes the tap of stage 1 reads the second sample at depth 0 and the first at depth 1. -/
def Obligations.NewestAndPreviousSampleReadBack : Prop :=
  ∀ (s t u v : State) (x y : F32), s.buf.wf = true → cursor s < activeLen s.params → s.params.hold = 0 →
    exec .asrWr { s with loc := { s.loc with edge := true, raw := x } } = .next t →
    exec .asrWr { t with loc := { t.loc with edge := true, raw := y } } = .next u →
    exec .asrTap1 u = .next v →
    (s.params.bufIndex = 0 → v.loc.tap.s1 = y) ∧ (s.params.bufIndex = 1 → v.loc.tap.s1 = x)

/-- R226: with depth 0 a TICK that writes the CV source's sample shows that very sample, quantized, on all four outputs. -/
def Obligations.WriteIsSeenByTheSameTick : Prop :=
  ∀ (s t : State) (cv clk q : F32), s.buf.wf = true → cursor s < activeLen s.params →
    s.params.hold = 0 → s.params.bufIndex = 0 → s.params.src = 0 → risingEdge s.prev clk = true →
    isNaN (fmul cv (i2f s.params.gain.toInt)) = false →
    quantize device s.params (resolve device s.params.scale.toInt) (fmul cv (i2f s.params.gain.toInt)) = some q →
    exec (.tick cv clk) s = .next t → t.out = ⟨q, q, q, q⟩

/-- R29, R192, R228: a TICK changes no cell but the one at the write cursor; so from a cursor in the window it changes no cell
at or above the active length. -/
def Obligations.TickWritesNoCellButTheCursors : Prop :=
  ∀ (s t : State) (cv clk : F32), s.buf.wf = true → exec (.tick cv clk) s = .next t →
    (∀ a, a ≠ s.wc.toNat → t.buf.read a = s.buf.read a) ∧
    (cursor s < activeLen s.params → ∀ a : Nat, activeLen s.params ≤ a → t.buf.read a = s.buf.read a)

/-- R97, R164: a PULSE from a low clock with hold not engaged moves the write cursor on by exactly one, and changes no cell but
the one the cursor was at. -/
def Obligations.PulseWritesExactlyOnce : Prop :=
  ∀ (s t u : State) (cv : F32), s.buf.wf = true → s.params.hold = 0 → fle s.prev f32One = true →
    exec (.tick cv clockHigh) s = .next t → exec (.tick cv clockLow) t = .next u →
    cursor u = (cursor s + 1) % activeLen s.params ∧ (∀ a, a ≠ s.wc.toNat → u.buf.read a = s.buf.read a)

/-! ## Sources -/

/-- R184: SRC.CV resets the stepper and answers CV times the gain taken as an integer; a NaN product is some NaN, a
fresh draw (log 3, 11). -/
def Obligations.SrcCvMultipliesByTheGain : Prop :=
  ∀ s : State,
    (isNaN (fmul s.loc.cv (i2f s.params.gain.toInt)) = false →
      exec .srcCv s = .next { s with
        cur := 0, dir := false, loc := { s.loc with raw := fmul s.loc.cv (i2f s.params.gain.toInt) } }) ∧
    (isNaN (fmul s.loc.cv (i2f s.params.gain.toInt)) = true → ∃ r, isNaN r = true ∧
      exec .srcCv s = .next { s with cur := 0, dir := false, loc := { s.loc with raw := r }, draws := s.draws + 1 })

/-- R184: gain 1 passes a CV sample that is no NaN through bit for bit; gain 0 turns a finite one into a zero with its sign. -/
def Obligations.UnitGainPassesAndZeroGainSilences : Prop :=
  ∀ x : F32,
    (isNaN x = false → fmul x (gainAsInteger 1) = x) ∧
    (isFinite x = true → fmul x (gainAsInteger 0) = x &&& 0x80000000#32)

/-- R185: after a TICK whose source is not the integer sequence the stepper is at cursor 0, direction +1. -/
def Obligations.OtherSourcesResetTheStepper : Prop :=
  ∀ (s t : State) (cv clk : F32), s.params.src.toInt ≠ 2 → exec (.tick cv clk) s = .next t → t.cur = 0 ∧ t.dir = false

/-- R121: the sample of byte `b` is exactly `b/128 - 1`, from -1 to 0.9921875; byte 128 gives +0.0. -/
def Obligations.OutputStageIsExact : Prop :=
  (∀ b : Byte, isFinite (byteSample b) = true ∧ valueOf (byteSample b) = (b.toNat : ℚ) / 128 - 1) ∧ byteSample 128 = 0

/-- R122: BB.EQ0 answers the sample of `(t[7:0] * t[15:8]) mod 256` and changes nothing else; and the formula reads bits 15:0 of
the counter only, the same at every `T_WIDTH` of at least 16. -/
def Obligations.BbEq0AnswersHopeOfTheLow16Bits : Prop :=
  (∀ s : State, ∃ r, exec .bbEq0 s = .next { s with loc := { s.loc with raw := r } } ∧ isFinite r = true ∧
    valueOf r = ((s.t.toNat % 256 * (s.t.toNat / 256 % 256) % 256 : Nat) : ℚ) / 128 - 1) ∧
  (∀ (w : Nat) (t : BitVec w), 16 ≤ w → (hope t).toNat = t.toNat % 256 * (t.toNat / 256 % 256) % 256)

/-- R123 to R130, R121: BB.EQ1 to BB.EQ8 answer the sample of their open formula's byte. -/
def Obligations.BbEq1To8AnswerTheirOpenFormula : Prop :=
  EquationAnswers .bbEq1 1 ∧ EquationAnswers .bbEq2 2 ∧ EquationAnswers .bbEq3 3 ∧
  EquationAnswers .bbEq4 4 ∧ EquationAnswers .bbEq5 5 ∧ EquationAnswers .bbEq6 6 ∧
  EquationAnswers .bbEq7 7 ∧ EquationAnswers .bbEq8 8

/-- R131 to R137, R121: BB.EQ9 to BB.EQ15 answer the sample of their open formula's byte. -/
def Obligations.BbEq9To15AnswerTheirOpenFormula : Prop :=
  EquationAnswers .bbEq9 9 ∧ EquationAnswers .bbEq10 10 ∧
  EquationAnswers .bbEq11 11 ∧ EquationAnswers .bbEq12 12 ∧
  EquationAnswers .bbEq13 13 ∧ EquationAnswers .bbEq14 14 ∧
  EquationAnswers .bbEq15 15

/-- R138, R186: BB.OOR answers +0.0; SRC.BB with an index outside 0..15 answers +0.0 with the counter advanced. -/
def Obligations.OutOfRangeEquationAnswersZero : Prop :=
  ∀ s : State,
    exec .bbOor s = .next { s with loc := { s.loc with raw := 0 } } ∧
    (s.params.bbEq.toInt < 0 ∨ 16 ≤ s.params.bbEq.toInt →
      exec .srcBb s = .next { s with cur := 0, dir := false, t := s.t + 1, loc := { s.loc with raw := 0 } })

/-- R186, R120: SRC.BB resets the stepper, advances the counter by one and answers `BYTEBEAT` at the advanced counter, for
every `P.BBEQ`; nothing else changes. -/
def Obligations.SrcBbAdvancesThenEvaluates : Prop :=
  ∀ s : State, exec .srcBb s = .next { s with
    cur := 0, dir := false, t := s.t + 1, loc := { s.loc with raw := ruleByteBeat s.params (s.t + 1) } }

/-- R143: SEQ.LOOP advances by the stride and jumps to 0 at or beyond the length, to `len - 1` below 0; the direction becomes
+1; nothing else changes. `CUR` is in the range R56 derives for it. -/
def Obligations.SeqLoopWrapsToZero : Prop :=
  ∀ s : State, -32769 ≤ s.cur.toInt → s.cur.toInt ≤ 65534 → ∃ t, exec .seqLoop s = .next t ∧
    t.dir = false ∧
    (s.params.seqLen.toInt ≤ s.cur.toInt + s.params.seqStride.toInt → t.cur.toInt = 0) ∧
    (s.cur.toInt + s.params.seqStride.toInt < s.params.seqLen.toInt → s.cur.toInt + s.params.seqStride.toInt < 0 →
      t.cur.toInt = s.params.seqLen.toInt - 1) ∧
    (s.cur.toInt + s.params.seqStride.toInt < s.params.seqLen.toInt → 0 ≤ s.cur.toInt + s.params.seqStride.toInt →
      t.cur.toInt = s.cur.toInt + s.params.seqStride.toInt) ∧
    t = { s with cur := t.cur, dir := t.dir }

/-- R144: SEQ.PEND judges both flip tests on the cursor before the advance, the lower one last, then advances by stride times
direction without a wrap; nothing else changes. -/
def Obligations.SeqPendFlipsThenAdvances : Prop :=
  ∀ s : State, -32769 ≤ s.cur.toInt → s.cur.toInt ≤ 65534 → ∃ t, exec .seqPend s = .next t ∧
    (s.cur.toInt ≤ 0 → t.dir = false) ∧
    (0 < s.cur.toInt → s.params.seqLen.toInt - 1 ≤ s.cur.toInt → t.dir = true) ∧
    (0 < s.cur.toInt → s.cur.toInt < s.params.seqLen.toInt - 1 → t.dir = s.dir) ∧
    t.cur.toInt = s.cur.toInt + s.params.seqStride.toInt * (if t.dir then -1 else 1) ∧
    t = { s with cur := t.cur, dir := t.dir }

/-- R145, R146: SEQ.READ reads the table `clamp(P.SEQSEL, 0, 9)` at the address `clamp(start + CUR, 0, 127)`; nothing else
changes. -/
def Obligations.SeqReadReadsTheClampedAddress : Prop :=
  ∀ s : State, ∃ (table : Fin 10) (a : Fin 128),
    exec .seqRead s = .next { s with loc := { s.loc with tv := (Config.openSeqRom table a).toNat } } ∧
    (table.val : Int) = max 0 (min 9 s.params.seqSel.toInt) ∧
    (a.val : Int) = max 0 (min 127 (s.params.seqStart.toInt + s.cur.toInt))

/-- R147, R154: for a modulus of at least 1 and a table value that is not negative SEQ.SCALE answers the value modulo the
modulus, divided by 12 and correctly rounded; otherwise the raw sample is any value, a fresh draw (log 8, 9). -/
def Obligations.SeqScaleReducesAndDividesByTwelve : Prop :=
  ∀ s : State,
    (1 ≤ s.params.seqMod.toInt → 0 ≤ s.loc.tv → ∃ r,
      exec .seqScale s = .next { s with loc := { s.loc with raw := r } } ∧
      r = fdiv (i2f (s.loc.tv % s.params.seqMod.toInt)) f32Twelve ∧
      IsRounded r (((s.loc.tv % s.params.seqMod.toInt : Int) : ℚ) / 12)) ∧
    (s.params.seqMod.toInt ≤ 0 ∨ s.loc.tv < 0 →
      exec .seqScale s = .next { s with loc := { s.loc with raw := Config.freeSample s.draws }, draws := s.draws + 1 })

/-- R187, R148, R142: SRC.SEQ starts from the cursor and direction it holds when the cursor is in the window and from 0 and +1
when not, advances, reads and scales; nothing else changes. A free raw sample is a fresh draw (log 3, 8, 9). -/
def Obligations.SrcSeqStepsAndReads : Prop :=
  ∀ s : State, ∃ t, exec .srcSeq s = .next t ∧
    t.cur.toInt = (ruleSeq s).cur ∧ t.dir = (ruleSeq s).dir ∧ t.loc.raw = (ruleSeq s).raw ∧ t.draws = (ruleSeq s).draws ∧
    t.loc.tv = ruleRead s.params t.cur.toInt ∧
    t = { s with cur := t.cur, dir := t.dir, draws := t.draws, loc := { s.loc with tv := t.loc.tv, raw := t.loc.raw } }

/-- R152, W4, generalised to every window length of at least 2: a pendulum of stride 1 started at cursor 0 walks up to
`len - 1` and down to 0 and so on; the direction is -1 from the TICK that starts at `len - 1` to the one that arrives at 0. -/
def Obligations.PendulumWalksUpAndDownForEver : Prop :=
  ∀ (s : State) (len : Nat) (samples : List (F32 × F32)),
    s.params.src = 2 → s.params.seqDir = 1 → s.params.seqStride = 1 → 2 ≤ len → s.params.seqLen.toInt = len →
    s.cur = 0 → s.dir = false → ∃ t, runTicks s samples = .next t ∧
      t.cur.toInt = pendulumCursor len samples.length ∧
      (1 ≤ samples.length → t.dir = decide (len - 1 ≤ (samples.length - 1) % (2 * (len - 1))))

/-- R149: with an empty window every TICK of the integer-sequence source starts from cursor 0, direction +1: in loop mode it ends
at 0, or at `len - 1` when the stride is below the length; in pendulum mode it ends at the stride with direction +1. -/
def Obligations.EmptyWindowRestartsEveryTick : Prop :=
  ∀ (s t : State) (cv clk : F32), s.params.src = 2 → s.params.seqLen.toInt ≤ 0 → exec (.tick cv clk) s = .next t →
    (s.params.seqDir ≠ 1 → t.dir = false ∧
      (s.params.seqLen.toInt ≤ s.params.seqStride.toInt → t.cur.toInt = 0) ∧
      (s.params.seqStride.toInt < s.params.seqLen.toInt → t.cur.toInt = s.params.seqLen.toInt - 1)) ∧
    (s.params.seqDir = 1 → t.dir = false ∧ t.cur.toInt = s.params.seqStride.toInt)

/-- R153: with `ADVANCE_FIRST = false` ByteBeat evaluates the counter before it advances, and the stepper reads its table at the
cursor after the reset check; the counter, the cursor and the direction end as with `true`. Every configuration. -/
def Obligations.EvaluateFirstReadsBeforeTheAdvance : Prop :=
  ∀ (w : Nat) (c : Config w) (s : State.At w), c.advanceFirst = false →
    (∃ t u, srcBb c s = .next t ∧ byteBeat c (seqReset s) = .next u ∧ t = { u with t := s.t + 1 }) ∧
    (∃ t u, srcSeq c s = .next t ∧ srcSeq { c with advanceFirst := true } s = .next u ∧ t.cur = u.cur ∧ t.dir = u.dir ∧
      t.loc.tv = c.seqRom (seqTable s.params)
        (clampIndex (s.params.seqStart.toInt + (ruleStart s).1) 128 (by decide)))

/-- R143, R151, R152, W5, for every stride and every window length that admit the walk: with `SEQ_LOOP_WRAP = modulo` the cursor
after `n` advances from 0 is `n * stride` modulo the length; with `to_zero` and a stride from 1 to below the length it climbs in
steps of the stride and jumps to 0 after every `ceil(len / stride)` advances. Every configuration. -/
def Obligations.LoopWalkUnderBothWraps : Prop :=
  ∀ (w : Nat) (c : Config w) (s : State.At w) (n len : Nat), s.cur = 0 → 1 ≤ len → s.params.seqLen.toInt = len →
    (c.loopWrap = .modulo → ∃ t, runLoop c s n = .next t ∧ t.cur.toInt = (n * s.params.seqStride.toInt) % len) ∧
    (∀ stride : Nat, c.loopWrap = .toZero → s.params.seqStride.toInt = stride → 1 ≤ stride → stride < len →
      ∃ t, runLoop c s n = .next t ∧ t.cur.toInt = stride * (n % ((len + stride - 1) / stride) : Nat))

/-! ## Quantizer -/

/-- R110, R105: over the empty scale the result is the octave floor: in the domain, with `12 * oct` exact in binary32, it is
exactly the integer `floor(n / 12)`; nothing but the stage's quantized value changes. -/
def Obligations.QntEmptyAnswersTheOctaveFloor : Prop :=
  ∀ (k : Stage) (s : State),
    let m := fround .halfAway (fmul (s.loc.tap.get k) f32Twelve)
    let n := f2i m + s.params.root.toInt + s.params.transpose.toInt
    inDomain m = true →
    (exec (.qntEmpty k) s = .next { s with
      loc := { s.loc with q := s.loc.q.set (fdiv (i2f (12 * (n / 12))) f32Twelve) k } }) ∧
    (valueOf (i2f (12 * (n / 12))) = (12 * (n / 12) : Int) → fdiv (i2f (12 * (n / 12))) f32Twelve = i2f (n / 12))

/-- R108, R109, R115: for every standard and every exotic scale and every tap value in the domain the quantizer rebuilds its
result from the scale entry at the lowest index among those nearest to the pitch class; nothing but the stage's quantized value
changes. -/
def Obligations.QuantizerPicksTheFirstNearestEntry : Prop :=
  ∀ (k : Stage) (s : State),
    let m := fround .halfAway (fmul (s.loc.tap.get k) f32Twelve)
    let n := f2i m + s.params.root.toInt + s.params.transpose.toInt
    inDomain m = true →
    (∀ i : Fin 16, s.params.scale.toInt = i.val → ∃ q,
      exec (.qntStd k) s = .next { s with loc := { s.loc with q := s.loc.q.set q k } } ∧
      FirstNearest s.params (Config.openStdRom i).entries n q) ∧
    (∀ i : Fin 117, s.params.scale.toInt = i.val + 16 → ∃ q,
      exec (.qntExo k) s = .next { s with loc := { s.loc with q := s.loc.q.set q k } } ∧
      FirstNearest s.params (Config.openExoRom i).entries n q)

/-- R111, R106: an integral entry of a scale, rotated by any `P.ROTATION`, is one of the integers 0 to 11, exactly. -/
def Obligations.IntegralEntriesRotateToPitchClasses : Prop :=
  ∀ (p : Params) (e : F32), entryOk e = true → entryIntegral e = true → ∃ r : Nat, r < 12 ∧ rotated p e = i2f r

/-- R114, R18: outside the domain (a NaN, an infinity, or a rounded semitone count beyond 2^30) the stage's quantized value is
any value, a fresh draw, and no register changes (log 10). -/
def Obligations.QuantizerOutsideItsDomainIsAnyValue : Prop :=
  ∀ (k : Stage) (s : State) (i : Instr), i = .qntStd k ∨ i = .qntExo k ∨ i = .qntEmpty k →
    (isFinite (s.loc.tap.get k) = false ∨ 2 ^ 30 < |valueOf (fround .halfAway (fmul (s.loc.tap.get k) f32Twelve))|) →
    exec i s = .next { s with
      loc := { s.loc with q := s.loc.q.set (Config.freeSample s.draws) k }, draws := s.draws + 1 }

/-- R116, with the bound `|n| ≤ 2^20` as the model's own addition (R117 item 8 has larger counts lose the scale step): when root
and transpose cancel and every entry is integral, quantizing a quantized value gives it back. Every configuration. -/
def Obligations.QuantizerIsIdempotentOnIntegralScales : Prop :=
  ∀ (w : Nat) (c : Config w) (p : Params) (S : List F32) (v q : F32),
    p.root.toInt + p.transpose.toInt = 0 → scaleOk S = true → S.all entryIntegral = true →
    |semitoneCount p (semitones c v)| ≤ 2 ^ 20 →
    quantize c p S v = some q → quantize c p S q = some q

/-! ## Arithmetic -/

/-- R17: `fadd`, `fsub`, `fmul`, `fdiv` and `i2f` are correctly rounded: for finite operands and an exact result below the
overflow bound they answer the nearest sample, ties to even. -/
def Obligations.ArithmeticIsCorrectlyRounded : Prop :=
  (∀ a b : F32, isFinite a = true → isFinite b = true →
    (|valueOf a + valueOf b| < overflowBound → IsRounded (fadd a b) (valueOf a + valueOf b)) ∧
    (|valueOf a - valueOf b| < overflowBound → IsRounded (fsub a b) (valueOf a - valueOf b)) ∧
    (|valueOf a * valueOf b| < overflowBound → IsRounded (fmul a b) (valueOf a * valueOf b)) ∧
    (valueOf b ≠ 0 → |valueOf a / valueOf b| < overflowBound → IsRounded (fdiv a b) (valueOf a / valueOf b))) ∧
  (∀ n : Int, |(n : ℚ)| < overflowBound → IsRounded (i2f n) n)

/-- R104: `fround` answers an integer within 1/2 of its finite argument; an exact tie goes away from zero or to the even integer,
as `QROUND` says, and the machine takes the former (R10; log 6); the sign is kept; and `f2i` of the result is that integer. -/
def Obligations.RoundingToAnIntegerFollowsQround : Prop :=
  device.qround = .halfAway ∧ ∀ (tie : TieRule) (x : F32), isFinite x = true → ∃ n : Int,
    isFinite (fround tie x) = true ∧ signBit (fround tie x) = signBit x ∧ valueOf (fround tie x) = n ∧ f2i (fround tie x) = n ∧ |(n : ℚ) - valueOf x| ≤ 1 / 2 ∧
    (|(n : ℚ) - valueOf x| = 1 / 2 →
      (tie = .halfAway → |valueOf x| < |(n : ℚ)|) ∧ (tie = .halfEven → 2 ∣ n))

/-- R17: `fmod12` answers its finite argument unchanged in `[0, 12)`, and otherwise the exact `x - 12 * floor(x / 12)` correctly
rounded. -/
def Obligations.Fmod12IsTheRoundedRemainder : Prop :=
  ∀ x : F32, isFinite x = true →
    (0 ≤ valueOf x → valueOf x < 12 → fmod12 x = x) ∧
    IsRounded (fmod12 x) (valueOf x - 12 * ⌊valueOf x / 12⌋)

/-! ## What does not flow where -/

/-- R192: the CV sample has no influence when the source is ByteBeat or the integer sequence. -/
def Obligations.CvDoesNotReachGeneratedSources : Prop :=
  ∀ (s : State) (cv cv' clk : F32), s.params.src.toInt = 1 ∨ s.params.src.toInt = 2 →
    exec (.tick cv clk) s = exec (.tick cv' clk) s

/-- R26, R192: no TICK reads the outputs back: from states that differ in their outputs only, a TICK gives the same state. -/
def Obligations.OutputsAreNeverReadBack : Prop :=
  ∀ (s : State) (o : Lanes) (cv clk : F32), exec (.tick cv clk) { s with out := o } = exec (.tick cv clk) s

/-- R18, R114: a draw of the quantizer reaches only an output. In configurations that differ in their draws only, a TICK whose
raw sample is no free value gives states that differ in their outputs only. Every configuration. -/
def Obligations.QuantizerDrawsReachOnlyTheOutputs : Prop :=
  ∀ (w : Nat) (c : Config w) (draw' : Nat → F32) (s t t' : State.At w) (cv clk : F32),
    (s.params.src.toInt = 2 → 1 ≤ s.params.seqMod.toInt ∧ ∀ table a, 0 ≤ c.seqRom table a) →
    (s.params.src.toInt ≠ 1 → s.params.src.toInt ≠ 2 → isNaN (fmul cv (c.gainMap s.params.gain)) = false) →
    tick c cv clk s = .next t → tick { c with draw := draw' } cv clk s = .next t' → t' = { t with out := t'.out }

/-! ## Open parameters -/

/-- R10, R23, D7: the width of the ByteBeat counter is a parameter. At every width of at least 16 a TICK with `P.SRC = 1` advances
the counter by one modulo `2^w` and every other TICK keeps it; and equation 0 answers the same raw sample at two widths whenever
the counters agree in bits 15:0. Every configuration. -/
def Obligations.CounterWidthIsAParameter : Prop :=
  (∀ (w : Nat) (c : Config w) (s : State.At w) (cv clk : F32), ∃ t, tick c cv clk s = .next t ∧
    t.t.toNat = if s.params.src.toInt = 1 then (s.t.toNat + 1) % 2 ^ w else s.t.toNat) ∧
  (∀ (w w' : Nat) (c : Config w) (c' : Config w') (s : State.At w) (s' : State.At w'),
    s.t.toNat % 2 ^ 16 = s'.t.toNat % 2 ^ 16 → ∃ t t',
      runEquation c 0 s = .next t ∧ runEquation c' 0 s' = .next t' ∧ t.loc.raw = t'.loc.raw)

/-- R154, R147, R187: with a legal modulus SRC.SEQ leaves nothing free: no value is drawn, the table value is not negative and
fits 32 bits, and the raw sample is `m / 12` for the remainder `m` of the table value modulo `P.SEQMOD`. -/
def Obligations.LegalModulusLeavesNothingFree : Prop :=
  ∀ s : State, 1 ≤ s.params.seqMod.toInt → ∃ t, exec .srcSeq s = .next t ∧ t.draws = s.draws ∧
    0 ≤ t.loc.tv ∧ t.loc.tv < 2 ^ 32 ∧ t.loc.raw = fdiv (i2f (t.loc.tv % s.params.seqMod.toInt)) f32Twelve

/-- R100, R101: every scale index from 0 to 132 resolves to a list under the constraints of R101 ("ascend" read as log 7 says),
integral from 0 to 15, every other index to the empty list, and some index from 0 to 132 to Major. Every configuration. -/
def Obligations.TheScaleLibraryMeetsR101 : Prop :=
  ∀ (w : Nat) (c : Config w),
    (∀ i : Int, 0 ≤ i → i ≤ 132 → scaleOk (resolve c i) = true ∧ (i ≤ 15 → (resolve c i).all entryIntegral = true)) ∧
    (∀ i : Int, i < 0 ∨ 132 < i → resolve c i = []) ∧
    ∃ i : Int, 0 ≤ i ∧ i ≤ 132 ∧ resolve c i = majorScale
end

