-- ==== Sys2Proof/Laws/Memory.lean ====
section
/-! SUPPORT. The laws of the buffer's cells: a read after a write, a write leaves every other cell, every operation keeps the
canonical form, and in that form equal contents are equal lists. -/

namespace Sys2Proof.Machine

@[simp] theorem Memory.read_nil (a : Nat) : Memory.read [] a = 0#32 := rfl

/-- In the canonical form from `lo` on, a cell below `lo` is not listed and holds +0.0. -/
theorem Memory.read_below {m : Memory} {lo a : Nat} (h : Memory.wfFrom lo m = true) (ha : a < lo) : m.read a = 0#32 := by
  induction m generalizing lo with
  | nil => rfl
  | cons p m ih =>
    obtain ⟨b, v⟩ := p
    simp only [Memory.wfFrom, Bool.and_eq_true, decide_eq_true_eq] at h
    obtain ⟨⟨⟨hlo, _⟩, _⟩, hm⟩ := h
    rw [Memory.read, if_neg (by omega)]
    exact ih hm (by omega)

/-- The canonical form from `lo` on is one from any lower address. -/
theorem Memory.wfFrom_mono {m : Memory} {lo lo' : Nat} (h : Memory.wfFrom lo m = true) (hl : lo' ≤ lo) :
    Memory.wfFrom lo' m = true := by
  cases m with
  | nil => rfl
  | cons p m =>
    simp only [Memory.wfFrom, Bool.and_eq_true, decide_eq_true_eq] at h ⊢
    obtain ⟨⟨⟨hlo, h1⟩, h2⟩, h3⟩ := h
    exact ⟨⟨⟨by omega, h1⟩, h2⟩, h3⟩

/-- Reading after a write, any cell: the written cell gives the written sample, every other cell what it held. -/
theorem Memory.read_write {m : Memory} {lo : Nat} (h : Memory.wfFrom lo m = true) (a b : Nat) (v : F32) :
    (m.write a v).read b = if b = a then v else m.read b := by
  induction m generalizing lo with
  | nil =>
    by_cases hv : v = 0#32 <;> by_cases hb : b = a <;> simp [Memory.write, Memory.read, hv, hb]
  | cons p m ih =>
    obtain ⟨c, w⟩ := p
    simp only [Memory.wfFrom, Bool.and_eq_true, decide_eq_true_eq] at h
    obtain ⟨_, hm⟩ := h
    have below : ∀ x, x ≤ c → Memory.read m x = 0#32 := fun x hx => Memory.read_below hm (Nat.lt_succ_of_le hx)
    rcases Nat.lt_trichotomy a c with hac | hac | hac
    · have hne : a ≠ c := by omega
      by_cases hv : v = 0#32 <;> by_cases hb : b = a
      · subst hb; simp [Memory.write, Memory.read, hac, hne, hv, below b (by omega)]
      · simp [Memory.write, Memory.read, hac, hv, hb]
      · subst hb; simp [Memory.write, Memory.read, hac, hv]
      · simp [Memory.write, Memory.read, hac, hv, hb]
    · subst hac
      by_cases hv : v = 0#32 <;> by_cases hb : b = a
      · subst hb; simp [Memory.write, hv, below b (by omega)]
      · simp [Memory.write, Memory.read, hv, hb]
      · subst hb; simp [Memory.write, Memory.read, hv]
      · simp [Memory.write, Memory.read, hv, hb]
    · have h1 : ¬ a < c := by omega
      have h2 : a ≠ c := by omega
      simp only [Memory.write, h1, h2, if_false, Memory.read, ih hm]
      by_cases hb : b = a
      · subst hb; simp [h2]
      · simp [hb]

/-- A write to a cell of the buffer keeps the canonical form. -/
theorem Memory.write_wfFrom {m : Memory} {lo a : Nat} (h : Memory.wfFrom lo m = true) (hlo : lo ≤ a) (ha : a < bufferCells)
    (v : F32) : Memory.wfFrom lo (m.write a v) = true := by
  induction m generalizing lo with
  | nil =>
    by_cases hv : v = 0#32
    · simp [Memory.write, hv, Memory.wfFrom]
    · simp [Memory.write, hv, Memory.wfFrom, hlo, ha]
  | cons p m ih =>
    obtain ⟨c, w⟩ := p
    have h' := h
    simp only [Memory.wfFrom, Bool.and_eq_true, decide_eq_true_eq] at h
    obtain ⟨⟨⟨hc, hc'⟩, hw⟩, hm⟩ := h
    rcases Nat.lt_trichotomy a c with hac | hac | hac
    · by_cases hv : v = 0#32
      · simpa [Memory.write, hac, hv] using h'
      · simp only [Memory.write, hac, hv, if_true, if_false, Memory.wfFrom, Bool.and_eq_true, decide_eq_true_eq]
        exact ⟨⟨⟨hlo, ha⟩, hv⟩, ⟨⟨by omega, hc'⟩, hw⟩, hm⟩
    · subst hac
      by_cases hv : v = 0#32
      · simpa [Memory.write, hv] using Memory.wfFrom_mono hm (by omega)
      · simp only [Memory.write, hv, lt_irrefl, if_true, if_false, Memory.wfFrom, Bool.and_eq_true, decide_eq_true_eq]
        exact ⟨⟨⟨hlo, ha⟩, hv⟩, hm⟩
    · have h1 : ¬ a < c := by omega
      have h2 : a ≠ c := by omega
      simp only [Memory.write, h1, h2, if_false, Memory.wfFrom, Bool.and_eq_true, decide_eq_true_eq]
      exact ⟨⟨⟨hc, hc'⟩, hw⟩, ih hm (by omega)⟩

/-- Every write to a cell keeps the canonical form. -/
theorem Memory.write_wf {m : Memory} (h : m.wf = true) {a : Nat} (ha : a < bufferCells) (v : F32) :
    Memory.wf (m.write a v) = true :=
  Memory.write_wfFrom h (Nat.zero_le _) ha v

/-- In the canonical form equal contents are equal data. -/
theorem Memory.ext_of_wfFrom {m n : Memory} {lo : Nat} (hm : Memory.wfFrom lo m = true) (hn : Memory.wfFrom lo n = true)
    (h : ∀ a, m.read a = n.read a) : m = n := by
  induction m generalizing n lo with
  | nil =>
    cases n with
    | nil => rfl
    | cons p n =>
      obtain ⟨b, w⟩ := p
      simp only [Memory.wfFrom, Bool.and_eq_true, decide_eq_true_eq] at hn
      have := h b
      simp [Memory.read] at this
      exact absurd this.symm hn.1.2
  | cons p m ih =>
    obtain ⟨a, v⟩ := p
    simp only [Memory.wfFrom, Bool.and_eq_true, decide_eq_true_eq] at hm
    cases n with
    | nil =>
      have := h a
      simp [Memory.read] at this
      exact absurd this hm.1.2
    | cons q n =>
      obtain ⟨b, w⟩ := q
      simp only [Memory.wfFrom, Bool.and_eq_true, decide_eq_true_eq] at hn
      have hab : a = b := by
        rcases Nat.lt_trichotomy a b with hlt | heq | hgt
        · have := h a
          rw [Memory.read, if_pos rfl, Memory.read, if_neg (by omega), Memory.read_below hn.2 (by omega)] at this
          exact absurd this hm.1.2
        · exact heq
        · have := h b
          rw [Memory.read, if_neg (by omega), Memory.read_below hm.2 (by omega), Memory.read, if_pos rfl] at this
          exact absurd this.symm hn.1.2
      subst hab
      have hv : v = w := by simpa [Memory.read] using h a
      subst hv
      congr 1
      refine ih hm.2 hn.2 fun x => ?_
      rcases Nat.lt_or_ge x (a + 1) with hx | hx
      · rw [Memory.read_below hm.2 hx, Memory.read_below hn.2 hx]
      · have := h x
        rwa [Memory.read, if_neg (by omega), Memory.read, if_neg (by omega)] at this

/-- In the canonical form equal contents are equal data. -/
theorem Memory.ext_of_wf {m n : Memory} (hm : m.wf = true) (hn : n.wf = true) (h : ∀ a, m.read a = n.read a) : m = n :=
  Memory.ext_of_wfFrom hm hn h

/-- In the canonical form a cell outside the buffer is not listed. -/
theorem Memory.read_outside {m : Memory} {lo : Nat} (h : Memory.wfFrom lo m = true) {a : Nat} (ha : bufferCells ≤ a) :
    m.read a = 0#32 := by
  induction m generalizing lo with
  | nil => rfl
  | cons p m ih =>
    obtain ⟨b, v⟩ := p
    simp only [Memory.wfFrom, Bool.and_eq_true, decide_eq_true_eq] at h
    rw [Memory.read, if_neg (by omega)]
    exact ih h.2

/-- The reset memory is canonical (R54). -/
theorem Memory.wf_nil : Memory.wf [] = true := rfl

end Sys2Proof.Machine
end

