-- ==== Sys2Proof/Laws/Numerics.lean ====
section
/-! SUPPORT. Small laws of the binary32 primitives (R17, R92): sign and magnitude of a pattern, classes, exact rounding of a
representable value, comparisons. -/

namespace Sys2Proof.Machine

/-! ## Sign and magnitude -/

theorem toNat_withSign (neg : Bool) {mag : Nat} (h : mag < 2 ^ 31) :
    (withSign neg mag).toNat = if neg then mag + 2 ^ 31 else mag := by
  cases neg <;> simp only [withSign, BitVec.toNat_ofNat] <;> simp <;> omega

@[simp] theorem magBits_withSign (neg : Bool) {mag : Nat} (h : mag < 2 ^ 31) : magBits (withSign neg mag) = mag := by
  rw [magBits, toNat_withSign neg h]
  cases neg <;> simp <;> omega

@[simp] theorem signBit_withSign (neg : Bool) {mag : Nat} (h : mag < 2 ^ 31) : signBit (withSign neg mag) = neg := by
  rw [signBit, BitVec.getLsbD, toNat_withSign neg h, Nat.testBit_eq_decide_div_mod_eq]
  cases neg
  · simp
    omega
  · have : (mag + 2 ^ 31) / 2 ^ 31 = 1 := by omega
    simp only [if_true, this]
    decide

/-- A pattern is its sign and its magnitude bits. -/
theorem withSign_signBit_magBits (x : F32) : withSign (signBit x) (magBits x) = x := by
  apply BitVec.eq_of_toNat_eq
  have hx := x.isLt
  have hm : magBits x < 2 ^ 31 := Nat.mod_lt _ (by norm_num)
  rw [toNat_withSign _ hm, signBit, BitVec.getLsbD, Nat.testBit_eq_decide_div_mod_eq]
  have : x.toNat / 2 ^ 31 = 0 ∨ x.toNat / 2 ^ 31 = 1 := by omega
  unfold magBits
  rcases this with h | h
  · simp only [h]
    simp
    omega
  · simp only [h]
    simp
    omega

/-! ## Classes -/

/-- Every sample is a NaN, an infinity or finite. -/
theorem class_cases (x : F32) : isNaN x = true ∨ isInf x = true ∨ isFinite x = true := by
  simp only [isNaN, isInf, isFinite, decide_eq_true_eq]
  omega

theorem isFinite_not_isNaN {x : F32} (h : isFinite x = true) : isNaN x = false := by
  simp only [isNaN, isFinite, decide_eq_true_eq, decide_eq_false_iff_not] at *
  omega

theorem isFinite_not_isInf {x : F32} (h : isFinite x = true) : isInf x = false := by
  simp only [isInf, isFinite, decide_eq_true_eq, decide_eq_false_iff_not] at *
  omega

/-- A sample in the quantizer's domain or any finite sample is no infinity: a rounded magnitude never exceeds an infinity's. -/
theorem roundMag_le (num den : Nat) : roundMag num den ≤ 0x7F800000 := by
  unfold roundMag
  simp only
  split <;> omega

/-! ## Rounding what needs no rounding -/

/-- A whole number needs no rounding. -/
theorem nearestEven_mul (q d : Nat) (hd : 0 < d) : nearestEven (q * d) d = q := by
  simp only [nearestEven, Nat.mul_mod_left, Nat.mul_div_cancel q hd]
  rw [if_neg]
  omega

/-- The magnitude of the pattern with magnitude bits `mag`, in multiples of `2^-149`. -/
theorem units_withSign (neg : Bool) {mag : Nat} (h : mag < 2 ^ 31) :
    units (withSign neg mag) = if mag < 2 ^ 23 then mag else (2 ^ 23 + mag % 2 ^ 23) * 2 ^ (mag / 2 ^ 23 - 1) := by
  rw [units, magBits_withSign neg h]

/-- A representable magnitude rounds to itself. -/
theorem roundMag_units {x : F32} (h : isFinite x = true) : roundMag (units x) 1 = magBits x := by
  simp only [isFinite, decide_eq_true_eq] at h
  unfold units
  generalize hm : magBits x = m at *
  by_cases hs : m < 2 ^ 23
  · have he : m.log2 - 23 = 0 := by
      by_cases h0 : m = 0
      · subst h0; decide
      · have := (Nat.log2_lt h0).2 hs
        omega
    have hq : nearestEven m 1 = m := by simpa using nearestEven_mul m 1 (by norm_num)
    rw [if_pos hs]
    simp only [roundMag, Nat.div_one, he, pow_zero, Nat.mul_one, hq, Nat.zero_mul, Nat.zero_add]
    rw [if_neg (by omega)]
  · have hlo : 2 ^ 23 ≤ 2 ^ 23 + m % 2 ^ 23 := Nat.le_add_right _ _
    have hhi : 2 ^ 23 + m % 2 ^ 23 < 2 ^ 24 := by omega
    have hlog : ((2 ^ 23 + m % 2 ^ 23) * 2 ^ (m / 2 ^ 23 - 1)).log2 = 23 + (m / 2 ^ 23 - 1) := by
      have hne : (2 ^ 23 + m % 2 ^ 23) * 2 ^ (m / 2 ^ 23 - 1) ≠ 0 := by positivity
      rw [Nat.log2_eq_iff hne]
      constructor
      · rw [pow_add]; exact Nat.mul_le_mul_right _ hlo
      · rw [show 23 + (m / 2 ^ 23 - 1) + 1 = 24 + (m / 2 ^ 23 - 1) by omega, pow_add]
        exact Nat.mul_lt_mul_of_pos_right hhi (by positivity)
    have hq : nearestEven ((2 ^ 23 + m % 2 ^ 23) * 2 ^ (m / 2 ^ 23 - 1)) (2 ^ (m / 2 ^ 23 - 1)) = 2 ^ 23 + m % 2 ^ 23 :=
      nearestEven_mul _ _ (by positivity)
    rw [if_neg hs]
    simp only [roundMag, Nat.div_one, hlog, Nat.add_sub_cancel_left, Nat.one_mul, hq]
    have : (m / 2 ^ 23 - 1) * 2 ^ 23 + (2 ^ 23 + m % 2 ^ 23) = m := by omega
    rw [this, if_neg (by omega)]

/-- Rounding a finite sample's own value gives the sample back. -/
theorem roundUnits_units {x : F32} (h : isFinite x = true) : roundUnits (signBit x) (units x) 1 = x := by
  rw [roundUnits, roundMag_units h, withSign_signBit_magBits]

/-! ## Comparisons -/

/-- No comparison holds on a NaN (R17). -/
theorem flt_nan_left {x : F32} (h : isNaN x = true) (y : F32) : flt x y = false := by simp [flt, h]

theorem flt_nan_right (x : F32) {y : F32} (h : isNaN y = true) : flt x y = false := by simp [flt, h]

theorem fle_nan_left {x : F32} (h : isNaN x = true) (y : F32) : fle x y = false := by simp [fle, h]

theorem fle_nan_right (x : F32) {y : F32} (h : isNaN y = true) : fle x y = false := by simp [fle, h]

/-- Above and at-or-below exclude each other. -/
theorem fle_of_flt_false {x y : F32} (hx : isNaN x = false) (hy : isNaN y = false) : flt x y = !fle y x := by
  simp only [flt, fle, hx, hy, Bool.not_false, Bool.true_and]
  rw [← decide_not, decide_eq_decide]
  omega

end Sys2Proof.Machine
end

