-- ==== Sys2Proof/Laws/State.lean ====
section
/-! SUPPORT. What each named state change does to each field of State; the lanes. -/

namespace Sys2Proof

/-- A lane reads back what was set. -/
@[simp] theorem Lanes.get_set_same (l : Lanes) (v : F32) (k : Stage) : (l.set v k).get k = v := by cases k <;> rfl

/-- Setting one lane leaves the others. -/
theorem Lanes.get_set_other (l : Lanes) (v : F32) (k j : Stage) (h : j ≠ k) : (l.set v k).get j = l.get j := by
  cases k <;> cases j <;> first | rfl | exact absurd rfl h

/-- A stage number lies in 1 to 4. -/
theorem Stage.num_range (k : Stage) : 1 ≤ k.num ∧ k.num ≤ 4 := by cases k <;> decide

end Sys2Proof

namespace Sys2Proof.Machine

variable {w : Nat}

/-! ## setRaw -/

@[simp] theorem setRaw_buf (s : State.At w) (v : F32) : (setRaw s v).buf = s.buf := rfl
@[simp] theorem setRaw_wc (s : State.At w) (v : F32) : (setRaw s v).wc = s.wc := rfl
@[simp] theorem setRaw_prev (s : State.At w) (v : F32) : (setRaw s v).prev = s.prev := rfl
@[simp] theorem setRaw_t (s : State.At w) (v : F32) : (setRaw s v).t = s.t := rfl
@[simp] theorem setRaw_cur (s : State.At w) (v : F32) : (setRaw s v).cur = s.cur := rfl
@[simp] theorem setRaw_dir (s : State.At w) (v : F32) : (setRaw s v).dir = s.dir := rfl
@[simp] theorem setRaw_params (s : State.At w) (v : F32) : (setRaw s v).params = s.params := rfl
@[simp] theorem setRaw_out (s : State.At w) (v : F32) : (setRaw s v).out = s.out := rfl
@[simp] theorem setRaw_loc (s : State.At w) (v : F32) : (setRaw s v).loc = { s.loc with raw := v } := rfl
@[simp] theorem setRaw_draws (s : State.At w) (v : F32) : (setRaw s v).draws = s.draws := rfl
@[simp] theorem setRaw_inbox (s : State.At w) (v : F32) : (setRaw s v).inbox = s.inbox := rfl

/-! ## drawRaw -/

@[simp] theorem drawRaw_buf (c : Config w) (s : State.At w) : (drawRaw c s).buf = s.buf := rfl
@[simp] theorem drawRaw_wc (c : Config w) (s : State.At w) : (drawRaw c s).wc = s.wc := rfl
@[simp] theorem drawRaw_prev (c : Config w) (s : State.At w) : (drawRaw c s).prev = s.prev := rfl
@[simp] theorem drawRaw_t (c : Config w) (s : State.At w) : (drawRaw c s).t = s.t := rfl
@[simp] theorem drawRaw_cur (c : Config w) (s : State.At w) : (drawRaw c s).cur = s.cur := rfl
@[simp] theorem drawRaw_dir (c : Config w) (s : State.At w) : (drawRaw c s).dir = s.dir := rfl
@[simp] theorem drawRaw_params (c : Config w) (s : State.At w) : (drawRaw c s).params = s.params := rfl
@[simp] theorem drawRaw_out (c : Config w) (s : State.At w) : (drawRaw c s).out = s.out := rfl
@[simp] theorem drawRaw_loc (c : Config w) (s : State.At w) : (drawRaw c s).loc = { s.loc with raw := c.draw s.draws } := rfl
@[simp] theorem drawRaw_draws (c : Config w) (s : State.At w) : (drawRaw c s).draws = s.draws + 1 := rfl
@[simp] theorem drawRaw_inbox (c : Config w) (s : State.At w) : (drawRaw c s).inbox = s.inbox := rfl

/-! ## setTap -/

@[simp] theorem setTap_buf (s : State.At w) (k : Stage) (v : F32) : (setTap s k v).buf = s.buf := rfl
@[simp] theorem setTap_wc (s : State.At w) (k : Stage) (v : F32) : (setTap s k v).wc = s.wc := rfl
@[simp] theorem setTap_prev (s : State.At w) (k : Stage) (v : F32) : (setTap s k v).prev = s.prev := rfl
@[simp] theorem setTap_t (s : State.At w) (k : Stage) (v : F32) : (setTap s k v).t = s.t := rfl
@[simp] theorem setTap_cur (s : State.At w) (k : Stage) (v : F32) : (setTap s k v).cur = s.cur := rfl
@[simp] theorem setTap_dir (s : State.At w) (k : Stage) (v : F32) : (setTap s k v).dir = s.dir := rfl
@[simp] theorem setTap_params (s : State.At w) (k : Stage) (v : F32) : (setTap s k v).params = s.params := rfl
@[simp] theorem setTap_out (s : State.At w) (k : Stage) (v : F32) : (setTap s k v).out = s.out := rfl
@[simp] theorem setTap_loc (s : State.At w) (k : Stage) (v : F32) : (setTap s k v).loc = { s.loc with tap := s.loc.tap.set v k } := rfl
@[simp] theorem setTap_draws (s : State.At w) (k : Stage) (v : F32) : (setTap s k v).draws = s.draws := rfl
@[simp] theorem setTap_inbox (s : State.At w) (k : Stage) (v : F32) : (setTap s k v).inbox = s.inbox := rfl

/-! ## setQ -/

@[simp] theorem setQ_buf (s : State.At w) (k : Stage) (v : F32) : (setQ s k v).buf = s.buf := rfl
@[simp] theorem setQ_wc (s : State.At w) (k : Stage) (v : F32) : (setQ s k v).wc = s.wc := rfl
@[simp] theorem setQ_prev (s : State.At w) (k : Stage) (v : F32) : (setQ s k v).prev = s.prev := rfl
@[simp] theorem setQ_t (s : State.At w) (k : Stage) (v : F32) : (setQ s k v).t = s.t := rfl
@[simp] theorem setQ_cur (s : State.At w) (k : Stage) (v : F32) : (setQ s k v).cur = s.cur := rfl
@[simp] theorem setQ_dir (s : State.At w) (k : Stage) (v : F32) : (setQ s k v).dir = s.dir := rfl
@[simp] theorem setQ_params (s : State.At w) (k : Stage) (v : F32) : (setQ s k v).params = s.params := rfl
@[simp] theorem setQ_out (s : State.At w) (k : Stage) (v : F32) : (setQ s k v).out = s.out := rfl
@[simp] theorem setQ_loc (s : State.At w) (k : Stage) (v : F32) : (setQ s k v).loc = { s.loc with q := s.loc.q.set v k } := rfl
@[simp] theorem setQ_draws (s : State.At w) (k : Stage) (v : F32) : (setQ s k v).draws = s.draws := rfl
@[simp] theorem setQ_inbox (s : State.At w) (k : Stage) (v : F32) : (setQ s k v).inbox = s.inbox := rfl

/-! ## drawQ -/

@[simp] theorem drawQ_buf (c : Config w) (s : State.At w) (k : Stage) : (drawQ c s k).buf = s.buf := rfl
@[simp] theorem drawQ_wc (c : Config w) (s : State.At w) (k : Stage) : (drawQ c s k).wc = s.wc := rfl
@[simp] theorem drawQ_prev (c : Config w) (s : State.At w) (k : Stage) : (drawQ c s k).prev = s.prev := rfl
@[simp] theorem drawQ_t (c : Config w) (s : State.At w) (k : Stage) : (drawQ c s k).t = s.t := rfl
@[simp] theorem drawQ_cur (c : Config w) (s : State.At w) (k : Stage) : (drawQ c s k).cur = s.cur := rfl
@[simp] theorem drawQ_dir (c : Config w) (s : State.At w) (k : Stage) : (drawQ c s k).dir = s.dir := rfl
@[simp] theorem drawQ_params (c : Config w) (s : State.At w) (k : Stage) : (drawQ c s k).params = s.params := rfl
@[simp] theorem drawQ_out (c : Config w) (s : State.At w) (k : Stage) : (drawQ c s k).out = s.out := rfl
@[simp] theorem drawQ_loc (c : Config w) (s : State.At w) (k : Stage) : (drawQ c s k).loc = { s.loc with q := s.loc.q.set (c.draw s.draws) k } := rfl
@[simp] theorem drawQ_draws (c : Config w) (s : State.At w) (k : Stage) : (drawQ c s k).draws = s.draws + 1 := rfl
@[simp] theorem drawQ_inbox (c : Config w) (s : State.At w) (k : Stage) : (drawQ c s k).inbox = s.inbox := rfl

/-! ## setCursor -/

@[simp] theorem setCursor_buf (s : State.At w) (x : Int) : (setCursor s x).buf = s.buf := rfl
@[simp] theorem setCursor_wc (s : State.At w) (x : Int) : (setCursor s x).wc = BitVec.ofInt 6 x := rfl
@[simp] theorem setCursor_prev (s : State.At w) (x : Int) : (setCursor s x).prev = s.prev := rfl
@[simp] theorem setCursor_t (s : State.At w) (x : Int) : (setCursor s x).t = s.t := rfl
@[simp] theorem setCursor_cur (s : State.At w) (x : Int) : (setCursor s x).cur = s.cur := rfl
@[simp] theorem setCursor_dir (s : State.At w) (x : Int) : (setCursor s x).dir = s.dir := rfl
@[simp] theorem setCursor_params (s : State.At w) (x : Int) : (setCursor s x).params = s.params := rfl
@[simp] theorem setCursor_out (s : State.At w) (x : Int) : (setCursor s x).out = s.out := rfl
@[simp] theorem setCursor_loc (s : State.At w) (x : Int) : (setCursor s x).loc = s.loc := rfl
@[simp] theorem setCursor_draws (s : State.At w) (x : Int) : (setCursor s x).draws = s.draws := rfl
@[simp] theorem setCursor_inbox (s : State.At w) (x : Int) : (setCursor s x).inbox = s.inbox := rfl

/-! ## setSeqCursor -/

@[simp] theorem setSeqCursor_buf (s : State.At w) (x : Int) : (setSeqCursor s x).buf = s.buf := rfl
@[simp] theorem setSeqCursor_wc (s : State.At w) (x : Int) : (setSeqCursor s x).wc = s.wc := rfl
@[simp] theorem setSeqCursor_prev (s : State.At w) (x : Int) : (setSeqCursor s x).prev = s.prev := rfl
@[simp] theorem setSeqCursor_t (s : State.At w) (x : Int) : (setSeqCursor s x).t = s.t := rfl
@[simp] theorem setSeqCursor_cur (s : State.At w) (x : Int) : (setSeqCursor s x).cur = BitVec.ofInt 32 x := rfl
@[simp] theorem setSeqCursor_dir (s : State.At w) (x : Int) : (setSeqCursor s x).dir = s.dir := rfl
@[simp] theorem setSeqCursor_params (s : State.At w) (x : Int) : (setSeqCursor s x).params = s.params := rfl
@[simp] theorem setSeqCursor_out (s : State.At w) (x : Int) : (setSeqCursor s x).out = s.out := rfl
@[simp] theorem setSeqCursor_loc (s : State.At w) (x : Int) : (setSeqCursor s x).loc = s.loc := rfl
@[simp] theorem setSeqCursor_draws (s : State.At w) (x : Int) : (setSeqCursor s x).draws = s.draws := rfl
@[simp] theorem setSeqCursor_inbox (s : State.At w) (x : Int) : (setSeqCursor s x).inbox = s.inbox := rfl

/-! ## seqReset -/

@[simp] theorem seqReset_buf (s : State.At w) : (seqReset s).buf = s.buf := rfl
@[simp] theorem seqReset_wc (s : State.At w) : (seqReset s).wc = s.wc := rfl
@[simp] theorem seqReset_prev (s : State.At w) : (seqReset s).prev = s.prev := rfl
@[simp] theorem seqReset_t (s : State.At w) : (seqReset s).t = s.t := rfl
@[simp] theorem seqReset_cur (s : State.At w) : (seqReset s).cur = 0 := rfl
@[simp] theorem seqReset_dir (s : State.At w) : (seqReset s).dir = false := rfl
@[simp] theorem seqReset_params (s : State.At w) : (seqReset s).params = s.params := rfl
@[simp] theorem seqReset_out (s : State.At w) : (seqReset s).out = s.out := rfl
@[simp] theorem seqReset_loc (s : State.At w) : (seqReset s).loc = s.loc := rfl
@[simp] theorem seqReset_draws (s : State.At w) : (seqReset s).draws = s.draws := rfl
@[simp] theorem seqReset_inbox (s : State.At w) : (seqReset s).inbox = s.inbox := rfl

/-! ## seqPend -/

@[simp] theorem seqPend_buf (s : State.At w) : (seqPend s).buf = s.buf := rfl
@[simp] theorem seqPend_wc (s : State.At w) : (seqPend s).wc = s.wc := rfl
@[simp] theorem seqPend_prev (s : State.At w) : (seqPend s).prev = s.prev := rfl
@[simp] theorem seqPend_t (s : State.At w) : (seqPend s).t = s.t := rfl
@[simp] theorem seqPend_dir (s : State.At w) : (seqPend s).dir = pendDir (seqCursor s) (sext s.params.seqLen) s.dir := rfl
@[simp] theorem seqPend_params (s : State.At w) : (seqPend s).params = s.params := rfl
@[simp] theorem seqPend_out (s : State.At w) : (seqPend s).out = s.out := rfl
@[simp] theorem seqPend_loc (s : State.At w) : (seqPend s).loc = s.loc := rfl
@[simp] theorem seqPend_draws (s : State.At w) : (seqPend s).draws = s.draws := rfl
@[simp] theorem seqPend_inbox (s : State.At w) : (seqPend s).inbox = s.inbox := rfl

/-! ## detectEdge -/

@[simp] theorem detectEdge_buf (s : State.At w) : (detectEdge s).buf = s.buf := rfl
@[simp] theorem detectEdge_wc (s : State.At w) : (detectEdge s).wc = s.wc := rfl
@[simp] theorem detectEdge_prev (s : State.At w) : (detectEdge s).prev = s.loc.clk := rfl
@[simp] theorem detectEdge_t (s : State.At w) : (detectEdge s).t = s.t := rfl
@[simp] theorem detectEdge_cur (s : State.At w) : (detectEdge s).cur = s.cur := rfl
@[simp] theorem detectEdge_dir (s : State.At w) : (detectEdge s).dir = s.dir := rfl
@[simp] theorem detectEdge_params (s : State.At w) : (detectEdge s).params = s.params := rfl
@[simp] theorem detectEdge_out (s : State.At w) : (detectEdge s).out = s.out := rfl
@[simp] theorem detectEdge_loc (s : State.At w) : (detectEdge s).loc = { s.loc with edge := risingEdge s.prev s.loc.clk } := rfl
@[simp] theorem detectEdge_draws (s : State.At w) : (detectEdge s).draws = s.draws := rfl
@[simp] theorem detectEdge_inbox (s : State.At w) : (detectEdge s).inbox = s.inbox := rfl

/-! ## normalizeCursor -/

@[simp] theorem normalizeCursor_buf (s : State.At w) : (normalizeCursor s).buf = s.buf := rfl
@[simp] theorem normalizeCursor_wc (s : State.At w) : (normalizeCursor s).wc = BitVec.ofInt 6 (emod (cursor s) (activeLen s.params)) := rfl
@[simp] theorem normalizeCursor_prev (s : State.At w) : (normalizeCursor s).prev = s.prev := rfl
@[simp] theorem normalizeCursor_t (s : State.At w) : (normalizeCursor s).t = s.t := rfl
@[simp] theorem normalizeCursor_cur (s : State.At w) : (normalizeCursor s).cur = s.cur := rfl
@[simp] theorem normalizeCursor_dir (s : State.At w) : (normalizeCursor s).dir = s.dir := rfl
@[simp] theorem normalizeCursor_params (s : State.At w) : (normalizeCursor s).params = s.params := rfl
@[simp] theorem normalizeCursor_out (s : State.At w) : (normalizeCursor s).out = s.out := rfl
@[simp] theorem normalizeCursor_loc (s : State.At w) : (normalizeCursor s).loc = s.loc := rfl
@[simp] theorem normalizeCursor_draws (s : State.At w) : (normalizeCursor s).draws = s.draws := rfl
@[simp] theorem normalizeCursor_inbox (s : State.At w) : (normalizeCursor s).inbox = s.inbox := rfl

/-! ## driveOutputs -/

@[simp] theorem driveOutputs_buf (s : State.At w) : (driveOutputs s).buf = s.buf := rfl
@[simp] theorem driveOutputs_wc (s : State.At w) : (driveOutputs s).wc = s.wc := rfl
@[simp] theorem driveOutputs_prev (s : State.At w) : (driveOutputs s).prev = s.prev := rfl
@[simp] theorem driveOutputs_t (s : State.At w) : (driveOutputs s).t = s.t := rfl
@[simp] theorem driveOutputs_cur (s : State.At w) : (driveOutputs s).cur = s.cur := rfl
@[simp] theorem driveOutputs_dir (s : State.At w) : (driveOutputs s).dir = s.dir := rfl
@[simp] theorem driveOutputs_params (s : State.At w) : (driveOutputs s).params = s.params := rfl
@[simp] theorem driveOutputs_out (s : State.At w) : (driveOutputs s).out = s.loc.q := rfl
@[simp] theorem driveOutputs_loc (s : State.At w) : (driveOutputs s).loc = s.loc := rfl
@[simp] theorem driveOutputs_draws (s : State.At w) : (driveOutputs s).draws = s.draws := rfl
@[simp] theorem driveOutputs_inbox (s : State.At w) : (driveOutputs s).inbox = s.inbox := rfl

/-! ## beginTick -/

@[simp] theorem beginTick_buf (cv clk : F32) (s : State.At w) : (beginTick cv clk s).buf = s.buf := rfl
@[simp] theorem beginTick_wc (cv clk : F32) (s : State.At w) : (beginTick cv clk s).wc = s.wc := rfl
@[simp] theorem beginTick_prev (cv clk : F32) (s : State.At w) : (beginTick cv clk s).prev = s.prev := rfl
@[simp] theorem beginTick_t (cv clk : F32) (s : State.At w) : (beginTick cv clk s).t = s.t := rfl
@[simp] theorem beginTick_cur (cv clk : F32) (s : State.At w) : (beginTick cv clk s).cur = s.cur := rfl
@[simp] theorem beginTick_dir (cv clk : F32) (s : State.At w) : (beginTick cv clk s).dir = s.dir := rfl
@[simp] theorem beginTick_params (cv clk : F32) (s : State.At w) : (beginTick cv clk s).params = s.params := rfl
@[simp] theorem beginTick_out (cv clk : F32) (s : State.At w) : (beginTick cv clk s).out = s.out := rfl
@[simp] theorem beginTick_loc (cv clk : F32) (s : State.At w) : (beginTick cv clk s).loc = { TickLocals.idle with cv := cv, clk := clk } := rfl
@[simp] theorem beginTick_draws (cv clk : F32) (s : State.At w) : (beginTick cv clk s).draws = s.draws := rfl
@[simp] theorem beginTick_inbox (cv clk : F32) (s : State.At w) : (beginTick cv clk s).inbox = s.inbox := rfl

/-! ## endTick -/

@[simp] theorem endTick_buf (s : State.At w) : (endTick s).buf = s.buf := rfl
@[simp] theorem endTick_wc (s : State.At w) : (endTick s).wc = s.wc := rfl
@[simp] theorem endTick_prev (s : State.At w) : (endTick s).prev = s.prev := rfl
@[simp] theorem endTick_t (s : State.At w) : (endTick s).t = s.t := rfl
@[simp] theorem endTick_cur (s : State.At w) : (endTick s).cur = s.cur := rfl
@[simp] theorem endTick_dir (s : State.At w) : (endTick s).dir = s.dir := rfl
@[simp] theorem endTick_params (s : State.At w) : (endTick s).params = s.params := rfl
@[simp] theorem endTick_out (s : State.At w) : (endTick s).out = s.out := rfl
@[simp] theorem endTick_loc (s : State.At w) : (endTick s).loc = TickLocals.idle := rfl
@[simp] theorem endTick_draws (s : State.At w) : (endTick s).draws = s.draws := rfl
@[simp] theorem endTick_inbox (s : State.At w) : (endTick s).inbox = s.inbox := rfl

/-! ## advanceTime -/

@[simp] theorem advanceTime_buf (s : State.At w) : (advanceTime s).buf = s.buf := rfl
@[simp] theorem advanceTime_wc (s : State.At w) : (advanceTime s).wc = s.wc := rfl
@[simp] theorem advanceTime_prev (s : State.At w) : (advanceTime s).prev = s.prev := rfl
@[simp] theorem advanceTime_t (s : State.At w) : (advanceTime s).t = s.t + 1 := rfl
@[simp] theorem advanceTime_cur (s : State.At w) : (advanceTime s).cur = s.cur := rfl
@[simp] theorem advanceTime_dir (s : State.At w) : (advanceTime s).dir = s.dir := rfl
@[simp] theorem advanceTime_params (s : State.At w) : (advanceTime s).params = s.params := rfl
@[simp] theorem advanceTime_out (s : State.At w) : (advanceTime s).out = s.out := rfl
@[simp] theorem advanceTime_loc (s : State.At w) : (advanceTime s).loc = s.loc := rfl
@[simp] theorem advanceTime_draws (s : State.At w) : (advanceTime s).draws = s.draws := rfl
@[simp] theorem advanceTime_inbox (s : State.At w) : (advanceTime s).inbox = s.inbox := rfl

/-! ## loadp -/

@[simp] theorem loadp_buf (p : Params) (s : State.At w) : (loadp p s).buf = s.buf := rfl
@[simp] theorem loadp_wc (p : Params) (s : State.At w) : (loadp p s).wc = BitVec.ofInt 6 (emod (cursor s) (activeLen p)) := rfl
@[simp] theorem loadp_prev (p : Params) (s : State.At w) : (loadp p s).prev = s.prev := rfl
@[simp] theorem loadp_t (p : Params) (s : State.At w) : (loadp p s).t = s.t := rfl
@[simp] theorem loadp_cur (p : Params) (s : State.At w) : (loadp p s).cur = s.cur := rfl
@[simp] theorem loadp_dir (p : Params) (s : State.At w) : (loadp p s).dir = s.dir := rfl
@[simp] theorem loadp_params (p : Params) (s : State.At w) : (loadp p s).params = p := rfl
@[simp] theorem loadp_out (p : Params) (s : State.At w) : (loadp p s).out = s.out := rfl
@[simp] theorem loadp_loc (p : Params) (s : State.At w) : (loadp p s).loc = s.loc := rfl
@[simp] theorem loadp_draws (p : Params) (s : State.At w) : (loadp p s).draws = s.draws := rfl
@[simp] theorem loadp_inbox (p : Params) (s : State.At w) : (loadp p s).inbox = s.inbox := rfl

/-! ## rst -/

@[simp] theorem rst_buf (s : State.At w) : (rst s).buf = [] := rfl
@[simp] theorem rst_wc (s : State.At w) : (rst s).wc = 0 := rfl
@[simp] theorem rst_prev (s : State.At w) : (rst s).prev = 0 := rfl
@[simp] theorem rst_t (s : State.At w) : (rst s).t = 0 := rfl
@[simp] theorem rst_cur (s : State.At w) : (rst s).cur = 0 := rfl
@[simp] theorem rst_dir (s : State.At w) : (rst s).dir = false := rfl
@[simp] theorem rst_params (s : State.At w) : (rst s).params = Params.zero := rfl
@[simp] theorem rst_out (s : State.At w) : (rst s).out = Lanes.zero := rfl
@[simp] theorem rst_loc (s : State.At w) : (rst s).loc = TickLocals.idle := rfl
@[simp] theorem rst_draws (s : State.At w) : (rst s).draws = s.draws := rfl
@[simp] theorem rst_inbox (s : State.At w) : (rst s).inbox = s.inbox := rfl

/-! ## takeCommand -/

@[simp] theorem takeCommand_buf (s : State) : (takeCommand s).buf = s.buf := rfl
@[simp] theorem takeCommand_wc (s : State) : (takeCommand s).wc = s.wc := rfl
@[simp] theorem takeCommand_prev (s : State) : (takeCommand s).prev = s.prev := rfl
@[simp] theorem takeCommand_t (s : State) : (takeCommand s).t = s.t := rfl
@[simp] theorem takeCommand_cur (s : State) : (takeCommand s).cur = s.cur := rfl
@[simp] theorem takeCommand_dir (s : State) : (takeCommand s).dir = s.dir := rfl
@[simp] theorem takeCommand_params (s : State) : (takeCommand s).params = s.params := rfl
@[simp] theorem takeCommand_out (s : State) : (takeCommand s).out = s.out := rfl
@[simp] theorem takeCommand_loc (s : State) : (takeCommand s).loc = s.loc := rfl
@[simp] theorem takeCommand_draws (s : State) : (takeCommand s).draws = s.draws := rfl
@[simp] theorem takeCommand_inbox (s : State) : (takeCommand s).inbox = s.inbox.tail := rfl

/-! ## issue -/

@[simp] theorem issue_buf (p : PortSample) (s : State) : (issue p s).buf = s.buf := rfl
@[simp] theorem issue_wc (p : PortSample) (s : State) : (issue p s).wc = s.wc := rfl
@[simp] theorem issue_prev (p : PortSample) (s : State) : (issue p s).prev = s.prev := rfl
@[simp] theorem issue_t (p : PortSample) (s : State) : (issue p s).t = s.t := rfl
@[simp] theorem issue_cur (p : PortSample) (s : State) : (issue p s).cur = s.cur := rfl
@[simp] theorem issue_dir (p : PortSample) (s : State) : (issue p s).dir = s.dir := rfl
@[simp] theorem issue_params (p : PortSample) (s : State) : (issue p s).params = s.params := rfl
@[simp] theorem issue_out (p : PortSample) (s : State) : (issue p s).out = s.out := rfl
@[simp] theorem issue_loc (p : PortSample) (s : State) : (issue p s).loc = s.loc := rfl
@[simp] theorem issue_draws (p : PortSample) (s : State) : (issue p s).draws = s.draws := rfl
@[simp] theorem issue_inbox (p : PortSample) (s : State) : (issue p s).inbox = p :: s.inbox := rfl

end Sys2Proof.Machine
end

