-- ==== Sys2Proof/Laws/Ops.lean ====
section
/-! SUPPORT. One lemma for each shared operation that says what it can do. -/

namespace Sys2Proof.Machine

variable {w : Nat}

/-! ## Sequencing -/

@[simp] theorem andThen_next (s : State.At w) (f : State.At w → Result w) : andThen (.next s) f = f s := rfl

/-- A sequence answers a next state exactly when both parts do. -/
theorem andThen_eq_next {o : Result w} {f : State.At w → Result w} {t : State.At w} :
    andThen o f = .next t ↔ ∃ s, o = .next s ∧ f s = .next t := by
  cases o <;> simp [andThen]

/-! ## Integer primitives (R15) -/

/-- `emod` by a positive number is the Euclidean remainder. -/
theorem emod_eq (a b : Int) : emod a b = a % b := by
  rw [emod, floorDiv, Int.emod_def]

theorem emod_range (a : Int) {b : Int} (h : 0 < b) : 0 ≤ emod a b ∧ emod a b < b := by
  rw [emod_eq]
  exact ⟨Int.emod_nonneg _ (by omega), Int.emod_lt_of_pos _ h⟩

theorem clamp_range (x : Int) {lo hi : Int} (h : lo ≤ hi) : lo ≤ clamp x lo hi ∧ clamp x lo hi ≤ hi := by
  unfold clamp
  split
  · omega
  · split <;> omega

/-- A value in range is not changed by a clamp. -/
theorem clamp_of_mem {x lo hi : Int} (h1 : lo ≤ x) (h2 : x ≤ hi) : clamp x lo hi = x := by
  unfold clamp
  rw [if_neg (by omega), if_neg (by omega)]

/-- The number of a clamped index. -/
theorem clampIndex_val (x : Int) (n : Nat) (h : 0 < n) : ((clampIndex x n h).val : Int) = clamp x 0 (n - 1) := by
  have := (clamp_range x (lo := 0) (hi := (n : Int) - 1) (by omega)).1
  simp [clampIndex, Int.toNat_of_nonneg this]

/-! ## The active length and the cursor (R50, R21) -/

theorem activeLen_range (p : Params) : 4 ≤ activeLen p ∧ activeLen p ≤ 64 := clamp_range _ (by decide)

theorem cursor_range (s : State.At w) : 0 ≤ cursor s ∧ cursor s < 64 := by
  have := s.wc.isLt
  simp only [cursor]
  omega

/-- A value that fits is what `WC` then holds. -/
theorem cursor_setCursor (s : State.At w) {x : Int} (h0 : 0 ≤ x) (h1 : x < 64) : cursor (setCursor s x) = x := by
  have hx : x % 64 = x := Int.emod_eq_of_lt h0 h1
  simp only [cursor, setCursor, BitVec.toNat_ofInt]
  norm_num
  omega

/-- A value that fits is what `CUR` then holds. -/
theorem seqCursor_setSeqCursor (s : State.At w) {x : Int} (h0 : -2147483648 ≤ x) (h1 : x < 2147483648) :
    seqCursor (setSeqCursor s x) = x := by
  simp only [seqCursor, setSeqCursor, BitVec.toInt_ofInt]
  exact Int.bmod_eq_of_le (by norm_num; omega) (by norm_num; omega)

/-! ## Buffer accesses (R65) -/

theorem readCell_of_mem {m : Memory} {a : Int} (h0 : 0 ≤ a) (h1 : a < 64) : readCell m a = .ok (m.read a.toNat) := by
  rw [readCell, if_pos ⟨h0, h1⟩]

theorem writeCell_of_mem {m : Memory} {a : Int} (v : F32) (h0 : 0 ≤ a) (h1 : a < 64) :
    writeCell m a v = .ok (m.write a.toNat v) := by
  rw [writeCell, if_pos ⟨h0, h1⟩]

theorem tapAddress_range (s : State.At w) (k : Stage) : 0 ≤ tapAddress s k ∧ tapAddress s k < activeLen s.params :=
  emod_range _ (by have := (activeLen_range s.params).1; omega)

/-- A tap read always answers a next state: the cell at the tap address, in the lane of its stage. -/
theorem readTap_eq (k : Stage) (s : State.At w) : readTap k s = .next (setTap s k (s.buf.read (tapAddress s k).toNat)) := by
  have h := tapAddress_range s k
  have hl := (activeLen_range s.params).2
  rw [readTap, readCell_of_mem h.1 (by omega)]

/-- ASR.WR always answers a next state: the write, when there is an edge and hold is not engaged, else nothing. -/
theorem writeSample_eq (s : State.At w) :
    writeSample s = .next (if s.loc.edge && !holdEngaged s.params then
      setCursor { s with buf := s.buf.write s.wc.toNat s.loc.raw } (emod (cursor s + 1) (activeLen s.params)) else s) := by
  have h := cursor_range s
  have hc : (cursor s).toNat = s.wc.toNat := by simp [cursor]
  unfold writeSample
  split
  · rw [writeCell_of_mem _ h.1 h.2, hc]
  · rfl

/-! ## The quantizer -/

/-- A quantizer row always answers a next state: the quantized value in the lane of its stage, or a fresh free value. -/
theorem quantizeStage_eq (c : Config w) (S : List F32) (k : Stage) (s : State.At w) :
    quantizeStage c S k s = .next (match quantize c s.params S (s.loc.tap.get k) with
      | some q => setQ s k q
      | none => drawQ c s k) := rfl

/-- Phase 5 quantizes over the resolved scale, whichever row `P.SCALE` selects (R88, R100). -/
theorem quantizeTap_eq (c : Config w) (k : Stage) (s : State.At w) :
    quantizeTap c k s = quantizeStage c (resolve c (sext s.params.scale)) k s := by
  unfold quantizeTap resolve
  split
  · rfl
  · split <;> rfl

/-! ## The configuration of the machine -/

/-- The machine's integer tables meet the constraint of R154. -/
theorem device_seqRomOk : device.SeqRomOk := fun table a =>
  ⟨Int.natCast_nonneg _, Int.ofNat_lt.mpr (Config.openSeqRom table a).isLt⟩

/-- A standard index finds its standard scale (R100). -/
theorem stdEntries_val (c : Config w) (i : Fin 16) : stdEntries c (i.val : Int) = (c.scaleRom.std i).entries := by
  rw [stdEntries, dif_pos ⟨by omega, by omega⟩]
  rfl

/-- Exotic entry `j` stands at index `j + 16` (R100, D25). -/
theorem exoEntries_val (c : Config w) (j : Fin 117) : exoEntries c ((j.val : Int) + 16) = (c.scaleRom.exo j).entries := by
  rw [exoEntries, dif_pos ⟨by omega, by omega⟩]
  congr 2
  ext
  simp

/-! ## The sources -/

/-- The counter advances by one and wraps at its width (R23, R186). -/
theorem advanceTime_toNat (s : State.At w) : (advanceTime s).t.toNat = (s.t.toNat + 1) % 2 ^ w := by
  simp [BitVec.toNat_add]

/-- With a legal modulus and a table value that is not negative SEQ.SCALE draws nothing (R147). -/
theorem seqScale_of_legal (c : Config w) {s : State.At w} (hm : 1 ≤ sext s.params.seqMod) (ht : 0 ≤ s.loc.tv) :
    seqScale c s = .next (setRaw s (fdiv (i2f (emod s.loc.tv (sext s.params.seqMod))) f32Twelve)) := by
  rw [seqScale, if_pos ⟨hm, ht⟩]

/-- The ByteBeat bank always answers a next state: a raw sample and nothing else. -/
theorem byteBeat_eq (c : Config w) (s : State.At w) : ∃ raw, byteBeat c s = .next (setRaw s raw) := by
  unfold byteBeat
  split
  · exact ⟨_, rfl⟩
  · exact ⟨_, rfl⟩

/-- SEQ.SCALE answers a raw sample and nothing else, or a raw sample that is a fresh free value. -/
theorem seqScale_eq (c : Config w) (s : State.At w) :
    (∃ raw, seqScale c s = .next (setRaw s raw)) ∨ seqScale c s = .next (drawRaw c s) := by
  unfold seqScale
  split
  · exact .inl ⟨_, rfl⟩
  · exact .inr rfl

/-- The advance changes the stepper's cursor and direction and nothing else. -/
theorem seqAdvance_eq (c : Config w) (s : State.At w) : ∃ cur dir, seqAdvance c s = .next { s with cur := cur, dir := dir } := by
  unfold seqAdvance
  split
  · exact ⟨_, _, rfl⟩
  · exact ⟨_, _, rfl⟩

/-- SRC.CV resets the stepper and answers a raw sample; it draws only which NaN a NaN product is. -/
theorem srcCv_eq (c : Config w) (s : State.At w) :
    ∃ raw n, srcCv c s = .next { setRaw (seqReset s) raw with draws := n } := by
  unfold srcCv
  split
  · exact ⟨_, _, rfl⟩
  · exact ⟨fmul s.loc.cv (c.gainMap s.params.gain), s.draws, rfl⟩

/-- SRC.BB resets the stepper, advances the counter and answers a raw sample. -/
theorem srcBb_eq (c : Config w) (s : State.At w) : ∃ raw, srcBb c s = .next (setRaw (advanceTime (seqReset s)) raw) := by
  unfold srcBb
  split
  · exact byteBeat_eq c _
  · obtain ⟨raw, h⟩ := byteBeat_eq c (seqReset s)
    exact ⟨raw, by rw [h]; rfl⟩

/-- SRC.SEQ changes the stepper, the table value and the raw sample, and draws at most one free value. -/
theorem srcSeq_eq (c : Config w) (s : State.At w) :
    ∃ cur dir tv raw n, srcSeq c s =
      .next { s with cur := cur, dir := dir, loc := { s.loc with tv := tv, raw := raw }, draws := n } := by
  have key : ∀ s0 : State.At w, ∃ cur dir tv raw n,
      (if c.advanceFirst then andThen (andThen (seqAdvance c s0) (seqRead c)) (seqScale c)
        else andThen (andThen (seqRead c s0) (seqScale c)) (seqAdvance c)) =
      .next { s0 with cur := cur, dir := dir, loc := { s0.loc with tv := tv, raw := raw }, draws := n } := by
    intro s0
    split
    · obtain ⟨cur, dir, h⟩ := seqAdvance_eq c s0
      rw [h, andThen_next, seqRead, andThen_next]
      obtain ⟨raw, h2⟩ | h2 := seqScale_eq c { { s0 with cur := cur, dir := dir } with
          loc := { s0.loc with tv := c.seqRom (seqTable s0.params) (seqAddress { s0 with cur := cur, dir := dir }) } }
      · exact ⟨cur, dir, _, raw, s0.draws, by rw [h2]; rfl⟩
      · exact ⟨cur, dir, _, _, s0.draws + 1, by rw [h2]; rfl⟩
    · rw [seqRead, andThen_next]
      obtain ⟨raw, h2⟩ | h2 := seqScale_eq c { s0 with
          loc := { s0.loc with tv := c.seqRom (seqTable s0.params) (seqAddress s0) } }
      · rw [h2, andThen_next]
        obtain ⟨cur, dir, h⟩ := seqAdvance_eq c (setRaw { s0 with
          loc := { s0.loc with tv := c.seqRom (seqTable s0.params) (seqAddress s0) } } raw)
        exact ⟨cur, dir, _, raw, s0.draws, by rw [h]; rfl⟩
      · rw [h2, andThen_next]
        obtain ⟨cur, dir, h⟩ := seqAdvance_eq c (drawRaw c { s0 with
          loc := { s0.loc with tv := c.seqRom (seqTable s0.params) (seqAddress s0) } })
        exact ⟨cur, dir, _, _, s0.draws + 1, by rw [h]; rfl⟩
  unfold srcSeq
  by_cases hw : inWindow s = true
  · simpa [hw] using key s
  · obtain ⟨cur, dir, tv, raw, n, h⟩ := key (seqReset s)
    refine ⟨cur, dir, tv, raw, n, ?_⟩
    simp only [hw]
    exact h

end Sys2Proof.Machine
end

