-- ==== Sys2Proof/Laws/PerInstr.lean ====
section
/-! SUPPORT. Per-instruction statements. RowWord: an instruction has a word in the opcode table exactly when it is decoded from
bits, and that word decodes to an instruction of the same format (R95). -/

namespace Sys2Proof.Laws.RowWord

/-- The statement for one instruction. -/
def Statement (i : Instr) : Prop :=
  (encodeWord i).isSome = i.wellFormed ∧
    ∀ w, encodeWord i = some w → ∃ j, decodeRow i.format i.stage w = .ok j ∧ j.format = i.format

/-- A row with word `w`. -/
theorem of_word {i : Instr} (w : Nat) (j : Instr) (hw : encodeWord i = some w) (hf : i.wellFormed = true)
    (hd : decodeRow i.format i.stage w = .ok j) (hj : j.format = i.format) : Statement i :=
  ⟨by simp [hw, hf], fun w' h => ⟨j, by rw [hw] at h; cases h; exact hd, hj⟩⟩

/-- A row that is not decoded from bits. -/
theorem of_none {i : Instr} (hw : encodeWord i = none) (hf : i.wellFormed = false) : Statement i :=
  ⟨by simp [hw, hf], fun w h => by simp [hw] at h⟩

theorem idle : Statement .idle := of_word 0 .idle rfl rfl rfl rfl

theorem loadp (p : Params) : Statement (.loadp p) := of_word 1 (.loadp (Params.ofWord 0)) rfl rfl rfl rfl

theorem tick (cv clk : F32) : Statement (.tick cv clk) := of_word 2 (.tick 0 0) rfl rfl rfl rfl

theorem rst : Statement .rst := of_word 3 .rst rfl rfl rfl rfl

theorem srcCv : Statement .srcCv := of_word 0 .srcCv rfl rfl rfl rfl

theorem srcBb : Statement .srcBb := of_word 1 .srcBb rfl rfl rfl rfl

theorem srcSeq : Statement .srcSeq := of_word 2 .srcSeq rfl rfl rfl rfl

theorem bbEq0 : Statement .bbEq0 := of_word 0 .bbEq0 rfl rfl rfl rfl

theorem bbEq1 : Statement .bbEq1 := of_word 1 .bbEq1 rfl rfl rfl rfl

theorem bbEq2 : Statement .bbEq2 := of_word 2 .bbEq2 rfl rfl rfl rfl

theorem bbEq3 : Statement .bbEq3 := of_word 3 .bbEq3 rfl rfl rfl rfl

theorem bbEq4 : Statement .bbEq4 := of_word 4 .bbEq4 rfl rfl rfl rfl

theorem bbEq5 : Statement .bbEq5 := of_word 5 .bbEq5 rfl rfl rfl rfl

theorem bbEq6 : Statement .bbEq6 := of_word 6 .bbEq6 rfl rfl rfl rfl

theorem bbEq7 : Statement .bbEq7 := of_word 7 .bbEq7 rfl rfl rfl rfl

theorem bbEq8 : Statement .bbEq8 := of_word 8 .bbEq8 rfl rfl rfl rfl

theorem bbEq9 : Statement .bbEq9 := of_word 9 .bbEq9 rfl rfl rfl rfl

theorem bbEq10 : Statement .bbEq10 := of_word 10 .bbEq10 rfl rfl rfl rfl

theorem bbEq11 : Statement .bbEq11 := of_word 11 .bbEq11 rfl rfl rfl rfl

theorem bbEq12 : Statement .bbEq12 := of_word 12 .bbEq12 rfl rfl rfl rfl

theorem bbEq13 : Statement .bbEq13 := of_word 13 .bbEq13 rfl rfl rfl rfl

theorem bbEq14 : Statement .bbEq14 := of_word 14 .bbEq14 rfl rfl rfl rfl

theorem bbEq15 : Statement .bbEq15 := of_word 15 .bbEq15 rfl rfl rfl rfl

theorem bbOor : Statement .bbOor := of_word 16 .bbOor rfl rfl rfl rfl

theorem seqLoop : Statement .seqLoop := of_word 0 .seqLoop rfl rfl rfl rfl

theorem seqPend : Statement .seqPend := of_word 1 .seqPend rfl rfl rfl rfl

theorem qntStd (k : Stage) : Statement (.qntStd k) := of_word 0 (.qntStd k) rfl rfl (by cases k <;> rfl) rfl

theorem qntExo (k : Stage) : Statement (.qntExo k) := of_word 16 (.qntExo k) rfl rfl (by cases k <;> rfl) rfl

theorem qntEmpty (k : Stage) : Statement (.qntEmpty k) := of_word 133 (.qntEmpty k) rfl rfl (by cases k <;> rfl) rfl

theorem edge : Statement .edge := of_none rfl rfl

theorem seqReset : Statement .seqReset := of_none rfl rfl

theorem seqRead : Statement .seqRead := of_none rfl rfl

theorem seqScale : Statement .seqScale := of_none rfl rfl

theorem asrWr : Statement .asrWr := of_none rfl rfl

theorem asrTap1 : Statement .asrTap1 := of_none rfl rfl

theorem asrTap2 : Statement .asrTap2 := of_none rfl rfl

theorem asrTap3 : Statement .asrTap3 := of_none rfl rfl

theorem asrTap4 : Statement .asrTap4 := of_none rfl rfl

theorem out : Statement .out := of_none rfl rfl

theorem asrNorm : Statement .asrNorm := of_none rfl rfl

end Sys2Proof.Laws.RowWord
end

