-- ==== Sys2Proof/Tests/Slice0.lean ====
section
/-! SUPPORT. Tests of single instructions against the values of spec/95_test_vectors.md (V below) and the examples of the
rules, and for every statement with hypotheses a concrete state and operands that meet them all. -/

namespace Sys2Proof.Tests
open Sys2Proof.Machine

/-- The next state of an answer, for comparison. -/
def nextOf {w : Nat} : Result w → Option (State.At w)
  | .next s => some s
  | _ => none

theorem eq_next_of_nextOf {o : Result} {t : State} (h : nextOf o = some t) : o = .next t := by
  cases o <;> simp_all [nextOf]

/-- The state an answer holds, the reset state for a stop. -/
def after (o : Result) : State := (nextOf o).getD State.reset

/-- Major (V section 1). -/
def major : List F32 :=
  [0x00000000#32, 0x40000000#32, 0x40800000#32, 0x40A00000#32, 0x40E00000#32, 0x41100000#32, 0x41300000#32, 0x41400000#32]

/-- The exotic list of Q27 (R112). -/
def exotic : List F32 := [0x00000000#32, 0x3FC00000#32, 0x40600000#32, 0x40E00000#32, 0x41080000#32]

/-- The test configuration TC (V section 1); the tables are `1000 * table + address` so that the table shows too, and every
open equation is 192 (the example of R123). -/
def tc : Config tWidth where
  wide := by decide
  qround := .halfAway
  loopWrap := .toZero
  advanceFirst := true
  gainMap := gainAsInteger
  bbEq := fun _ _ _ _ _ => 192
  seqRom := fun s a => 1000 * s.val + a.val
  scaleRom := ⟨fun _ => ⟨major, by decide, by decide⟩, fun _ => ⟨exotic, by decide⟩, .inl ⟨0, rfl⟩⟩
  draw := fun n => BitVec.ofNat 32 (100 + n)

/-- The reset state with other parameters. -/
def withParams (p : Params) : State := { State.reset with params := p }

/-! ## WellFormed: an ill-formed term for each check -/

theorem test_issuable_refuses_a_source_row : Instr.issuable .srcBb = false := by decide
theorem test_selectable_refuses_a_command : Instr.selectable (.tick 0 0) = false := by decide
theorem test_wellFormed_refuses_a_phase_row : Instr.wellFormed .edge = false := by decide
theorem test_wellFormed_refuses_a_loadp_sub_row : Instr.wellFormed .asrNorm = false := by decide

/-! ## Decoding: words written out from R80 to R88 -/

theorem test_decode_idle : decodePort ⟨0b00#2, 7, 8, 9⟩ = .idle := by decide
theorem test_decode_rst : decodePort ⟨0b11#2, 7, 8, 9⟩ = .rst := by decide
theorem test_decode_tick : decodePort ⟨0b10#2, 7, 0x3E800000#32, 0x40000000#32⟩ = .tick 0x3E800000#32 0x40000000#32 := by
  decide
/-- Program P3's payload (V section 4). -/
theorem test_decode_loadp :
    decodePort ⟨0b01#2, 0x000100010005000A000C00000000000000000000000200000000000400010000000000000000#304, 0, 0⟩ =
      .loadp { Params.zero with
        bufIndex := 1, bufLen := 4, src := 2, seqMod := 12, seqStart := 10, seqLen := 5, seqDir := 1, seqStride := 1 } := by
  decide
theorem test_decode_src : (List.map decodeSrc [0x0000#16, 0x0001#16, 0x0002#16, 0x0003#16, 0xFFFF#16]) =
    [.srcCv, .srcBb, .srcSeq, .srcCv, .srcCv] := by decide +kernel
theorem test_decode_bbeq : (List.map decodeBbeq [0#16, 1#16, 2#16, 3#16, 4#16, 5#16, 6#16, 7#16]) =
    [.bbEq0, .bbEq1, .bbEq2, .bbEq3, .bbEq4, .bbEq5, .bbEq6, .bbEq7] := by decide
theorem test_decode_bbeq_high : (List.map decodeBbeq [8#16, 9#16, 10#16, 11#16, 12#16, 13#16, 14#16, 15#16, 16#16, 0xFFFF#16]) =
    [.bbEq8, .bbEq9, .bbEq10, .bbEq11, .bbEq12, .bbEq13, .bbEq14, .bbEq15, .bbOor, .bbOor] := by decide
theorem test_decode_seqdir : (List.map decodeSeqdir [0x0000#16, 0x0001#16, 0x0002#16, 0xFFFF#16]) =
    [.seqLoop, .seqPend, .seqLoop, .seqLoop] := by decide
theorem test_decode_scale : (List.map (decodeScale .k2) [0#16, 15#16, 16#16, 132#16, 133#16, 0xFFFB#16]) =
    [.qntStd .k2, .qntStd .k2, .qntExo .k2, .qntExo .k2, .qntEmpty .k2, .qntEmpty .k2] := by decide
theorem test_decode_rejects_by_name :
    decodeRow .phase .k1 0 = .error .notDecodedFromBits ∧ decodeRow .cmd .k1 4 = .error .wordTooWide ∧
      decodeBits 24 0 = .error .noWordOfThisWidth := by decide
theorem test_table_words : decodeTableWord 8 2 = some (.tick 0 0) ∧ decodeTableWord 8 4 = none ∧
    decodeTableWord 16 1 = some .srcBb ∧ decodeTableWord 16 9 = some .bbEq9 ∧ decodeTableWord 16 133 = some (.qntEmpty .k1) := by
  decide
/-- Program P1's LOADP line and its first PULSE (V section 4). -/
theorem test_trace_expands : expandTrace Params.zero
      [.line .rst, .line (.loadp [(.scale, 0), (.bufIndex, 1), (.bufLen, 4), (.gain, 1)]), .line (.pulse 0x3E800000#32)] =
    [⟨3, 0, 0, 0⟩, ⟨1, 0x0000000000000000000000000000000000000000000000010000000400010000000000000000#304, 0, 0⟩,
      ⟨2, 0, 0x3E800000#32, 0x40000000#32⟩, ⟨2, 0, 0x3E800000#32, 0⟩] := by decide +kernel

/-! ## Arithmetic (V sections 2, 3) -/

theorem test_fdiv_five_twelfths : fdiv (i2f 5) f32Twelve = 0x3ED55555#32 := by decide
theorem test_fmul_rounds_to_half : fmul 0x3D2AAAAB#32 f32Twelve = 0x3F000000#32 := by decide
/-- The list of R101. -/
theorem test_majorScale : majorScale = [0, 2, 4, 5, 7, 9, 11, 12].map i2f := by decide
theorem test_fround_ties_away : fround .halfAway 0x40200000#32 = i2f 3 ∧ fround .halfAway 0xC0200000#32 = i2f (-3) := by decide
theorem test_fround_ties_even : fround .halfEven 0x40200000#32 = i2f 2 ∧ fround .halfEven 0x3FC00000#32 = i2f 2 := by decide
theorem test_fround_keeps_sign : fround .halfAway 0xBECCCCCD#32 = 0x80000000#32 ∧ f2i 0x80000000#32 = 0 := by decide
theorem test_integer_primitives : floorDiv (-1) 12 = -1 ∧ emod (-1) 12 = 11 ∧ emod (-7) 4 = 1 ∧ clamp 130 0 127 = 127 := by decide
theorem test_fmod12 : fmod12 (i2f 14) = i2f 2 ∧ fmod12 (i2f (-1)) = i2f 11 ∧ fmod12 (i2f 12) = 0 := by decide

/-! ## Commands -/

theorem test_idle : nextOf (exec .idle { State.reset with wc := 2, t := 9 }) = some { State.reset with wc := 2, t := 9 } := by
  decide
/-- The example of R170 and R181. -/
theorem test_loadp : (nextOf (exec (.loadp { Params.zero with bufLen := 8 }) { State.reset with wc := 13 })).map
    (fun s => (s.wc, s.params.bufLen)) = some (5, 8) := by decide
/-- Program P4, point (d). -/
def p4 : State := { withParams { Params.zero with bufIndex := 1, bufLen := 4, gain := 2 } with
  wc := 2,
  buf := [(0, 0x3E800000#32), (1, 0x3F000000#32), (2, 0x3F400000#32), (3, 0x3F800000#32), (4, 0x3FA00000#32),
    (5, 0x3FC00000#32)] }
theorem test_tick_p4 : (nextOf (tick tc 0x3F800000#32 0x40000000#32 p4)).map (fun s => (s.out, s.wc, s.buf.read 2, s.loc)) =
    some (⟨0x3ED55555#32, 0x3E2AAAAB#32, 0x3F800000#32, 0x40000000#32⟩, 3, 0x40000000#32, TickLocals.idle) := by decide +kernel
/-- W7: with hold engaged an edge writes nothing. -/
theorem test_tick_hold : (nextOf (exec (.tick 0x3F800000#32 0x40000000#32)
      { p4 with params := { p4.params with hold := 0xFFFF#16, scale := 133 } })).map (fun s => (s.buf, s.wc, s.prev)) =
    some (p4.buf, 2, 0x40000000#32) := by decide
theorem test_rst : nextOf (exec .rst { p4 with t := 5, cur := 3, dir := true, draws := 4 }) =
    some { State.reset with draws := 4 } := by decide

/-! ## Sources -/

theorem test_srcCv : (nextOf (exec .srcCv { withParams { Params.zero with gain := 0xFFFD#16 } with
      cur := 7, dir := true, loc := { TickLocals.idle with cv := 0x3E800000#32 } })).map
    (fun s => (s.loc.raw, s.cur, s.dir, s.draws)) = some (0xBF400000#32, 0, false, 0) := by decide
theorem test_srcCv_overflows : (nextOf (exec .srcCv { withParams { Params.zero with gain := 32767 } with
      loc := { TickLocals.idle with cv := 0x7E967699#32 } })).map (fun s => s.loc.raw) = some 0x7F800000#32 := by decide +kernel
/-- The example of R186. -/
theorem test_srcBb : (nextOf (exec .srcBb { withParams { Params.zero with src := 1 } with t := 256 })).map
    (fun s => (s.t, s.loc.raw)) = some (257, 0xBF7E0000#32) := by decide
/-- B5. -/
theorem test_srcBb_wraps : (nextOf (exec .srcBb { withParams { Params.zero with src := 1 } with t := 0xFFFFFFFF#32 })).map
    (fun s => (s.t, s.loc.raw)) = some (0, 0xBF800000#32) := by decide
/-- S20. -/
theorem test_srcSeq_resets : (nextOf (exec .srcSeq { withParams { Params.zero with
      src := 2, seqLen := 3, seqDir := 1, seqStride := 1, seqMod := 0 } with cur := 4, dir := true })).map
    (fun s => (s.cur, s.dir)) = some (1, false) := by decide
/-- Program P3, TICK 1: address 11, 11/12. -/
theorem test_srcSeq_p3 : (nextOf (srcSeq tc (withParams { Params.zero with
      src := 2, seqMod := 12, seqStart := 10, seqLen := 5, seqDir := 1, seqStride := 1 }))).map
    (fun s => (s.cur, s.loc.tv, s.loc.raw)) = some (1, 11, 0x3F6AAAAB#32) := by decide
/-- R153: read at cursor 0, then advance. -/
theorem test_srcSeq_evaluate_first : (nextOf (srcSeq { tc with advanceFirst := false } (withParams { Params.zero with
      src := 2, seqMod := 12, seqStart := 10, seqLen := 5, seqDir := 1, seqStride := 1 }))).map
    (fun s => (s.cur, s.loc.tv)) = some (1, 10) := by decide

/-! ## ByteBeat -/

theorem test_bbEq0 : (nextOf (exec .bbEq0 { State.reset with t := 1000 })).map (fun s => s.loc.raw) = some 0x3EE00000#32 := by
  decide
theorem test_hope_values : byteSample (hope (511 : Time)) = 0x3F7E0000#32 ∧ byteSample (hope (0x12345678 : Time)) = 0xBEC00000#32 := by
  decide
/-- The example of R123 to R137. -/
theorem test_open_equation : (nextOf (runEquation tc 3 State.reset)).map (fun s => s.loc.raw) = some 0x3F000000#32 := by decide
theorem test_bbEq1_to_5 (s : State) : exec .bbEq1 s = runEquation device 1 s ∧ exec .bbEq2 s = runEquation device 2 s ∧
    exec .bbEq3 s = runEquation device 3 s ∧ exec .bbEq4 s = runEquation device 4 s ∧
    exec .bbEq5 s = runEquation device 5 s := ⟨rfl, rfl, rfl, rfl, rfl⟩
theorem test_bbEq6_to_10 (s : State) : exec .bbEq6 s = runEquation device 6 s ∧ exec .bbEq7 s = runEquation device 7 s ∧
    exec .bbEq8 s = runEquation device 8 s ∧ exec .bbEq9 s = runEquation device 9 s ∧
    exec .bbEq10 s = runEquation device 10 s := ⟨rfl, rfl, rfl, rfl, rfl⟩
theorem test_bbEq11_to_15 (s : State) : exec .bbEq11 s = runEquation device 11 s ∧ exec .bbEq12 s = runEquation device 12 s ∧
    exec .bbEq13 s = runEquation device 13 s ∧ exec .bbEq14 s = runEquation device 14 s ∧
    exec .bbEq15 s = runEquation device 15 s := ⟨rfl, rfl, rfl, rfl, rfl⟩
theorem test_bbOor : (nextOf (exec .bbOor { State.reset with loc := { TickLocals.idle with raw := 5 } })).map
    (fun s => s.loc.raw) = some 0 := by decide
/-- The configuration `tc` at `T_WIDTH = 16`, the least width (R10). -/
def tc16 : Config 16 :=
  { tc with wide := by decide, bbEq := fun _ _ _ _ _ => 192, seqRom := tc.seqRom, scaleRom := tc.scaleRom }
/-- B5 at the least width: the counter wraps from 2^16 - 1 to 0. -/
theorem test_srcBb_wraps_at_width_16 : (nextOf (srcBb tc16 { State.zero 16 with
      params := { Params.zero with src := 1 }, t := 0xFFFF#16 })).map (fun s => (s.t, s.loc.raw)) = some (0, 0xBF800000#32) := by
  decide
/-- B6. -/
theorem test_operand_low_byte : lowByte 300 = 44 ∧ lowByte 0xFFFF#16 = 255 := by decide

/-! ## Integer sequence -/

theorem test_seqReset : nextOf (exec .seqReset { State.reset with cur := 7, dir := true, t := 3 }) =
    some { State.reset with t := 3 } := by decide
/-- W5: from 9 with stride 3 and length 10 to 0; the modulo alternative gives 2. -/
theorem test_seqLoop_wraps : (nextOf (exec .seqLoop { withParams { Params.zero with seqLen := 10, seqStride := 3 } with
      cur := 9, dir := true })).map (fun s => (s.cur, s.dir)) = some (0, false) ∧
    (nextOf (seqLoop { tc with loopWrap := .modulo } { withParams { Params.zero with seqLen := 10, seqStride := 3 } with
      cur := 9 })).map (fun s => s.cur) = some 2 := by decide
/-- S9: an empty window and a negative stride. -/
theorem test_seqLoop_empty : (nextOf (exec .seqLoop (withParams { Params.zero with seqStride := 0xFFFF#16 }))).map
    (fun s => s.cur) = some 0xFFFFFFFF#32 := by decide
/-- The example of R144. -/
theorem test_seqPend : (nextOf (exec .seqPend { withParams { Params.zero with seqLen := 5, seqStride := 1 } with cur := 4 })).map
    (fun s => (s.cur, s.dir)) = some (3, true) := by decide
/-- S14: both tests hold, the direction ends +1. -/
theorem test_seqPend_both : (nextOf (exec .seqPend { withParams { Params.zero with seqLen := 1, seqStride := 1 } with
      dir := true })).map (fun s => (s.cur, s.dir)) = some (1, false) := by decide
/-- S17 and S21: address clamped to 127, table clamped to 9. -/
theorem test_seqRead_clamps : (nextOf (seqRead tc { withParams { Params.zero with seqStart := 125, seqSel := 12 } with
      cur := 5 })).map (fun s => s.loc.tv) = some 9127 := by decide
/-- S18 and S22. -/
theorem test_seqRead_clamps_low : (nextOf (seqRead tc { withParams { Params.zero with seqStart := 0xFFFE#16, seqSel := 0xFFFF#16 }
    with cur := 1 })).map (fun s => s.loc.tv) = some 0 := by decide
theorem test_seqScale : (nextOf (exec .seqScale { withParams { Params.zero with seqMod := 12 } with
      loc := { TickLocals.idle with tv := 31 } })).map (fun s => (s.loc.raw, s.draws)) = some (0x3F155555#32, 0) := by decide
/-- A modulus of 0 draws. -/
theorem test_seqScale_draws : (nextOf (seqScale tc { State.reset with draws := 6 })).map (fun s => (s.loc.raw, s.draws)) =
    some (106, 7) := by decide

/-! ## Quantizer -/

/-- Q7. -/
theorem test_qntStd : (nextOf (qntStd tc .k2 { State.reset with loc := { TickLocals.idle with
      tap := ⟨0, 0xBE000000#32, 0, 0⟩ } })).map (fun s => s.loc.q) = some ⟨0, 0xBE800000#32, 0, 0⟩ := by decide
/-- Q16. -/
theorem test_qntStd_rotated : quantize tc { Params.zero with rotation := 2 } major 0 = some 0x3DAAAAAB#32 := by decide
/-- Q27. -/
theorem test_qntExo : (nextOf (qntExo tc .k4 { withParams { Params.zero with scale := 16 } with
      loc := { TickLocals.idle with tap := ⟨0, 0, 0, 0x3E800000#32⟩ } })).map (fun s => s.loc.q) =
    some ⟨0, 0, 0, 0x3E955555#32⟩ := by decide +kernel
/-- Q21. -/
theorem test_qntEmpty : (nextOf (exec (.qntEmpty .k1) { withParams { Params.zero with scale := 0xFFFB#16 } with
      loc := { TickLocals.idle with tap := ⟨0xBF000000#32, 0, 0, 0⟩ } })).map (fun s => s.loc.q.s1) = some 0xBF800000#32 := by
  decide
/-- Q25: a NaN draws. -/
theorem test_qntEmpty_draws : (nextOf (qntEmpty tc .k3 { State.reset with draws := 2, loc := { TickLocals.idle with
      tap := ⟨0, 0, 0x7FC00000#32, 0⟩ } })).map (fun s => (s.loc.q.s3, s.draws)) = some (102, 3) := by decide
/-- Q6 under both tie rules. -/
theorem test_quantize_ties : quantize tc Params.zero major 0x3EC00000#32 = some 0x3ED55555#32 ∧
    quantize { tc with qround := .halfEven } Params.zero major 0x3EC00000#32 = some 0x3EAAAAAB#32 := by decide

/-! ## Buffer -/

/-- E5. -/
theorem test_edge_at_threshold : (nextOf (exec .edge { State.reset with
      prev := 0x3F800000#32, loc := { TickLocals.idle with clk := 0x3F800001#32 } })).map
    (fun s => (s.loc.edge, s.prev)) = some (true, 0x3F800001#32) := by decide
/-- E13. -/
theorem test_edge_after_nan : (nextOf (exec .edge { State.reset with
      prev := 0x7FC00000#32, loc := { TickLocals.idle with clk := 0x40000000#32 } })).map
    (fun s => (s.loc.edge, s.prev)) = some (false, 0x40000000#32) := by decide
/-- The example of R163. -/
theorem test_asrWr : (nextOf (exec .asrWr { State.reset with
      wc := 3, loc := { TickLocals.idle with edge := true, raw := 0x3E800000#32 } })).map (fun s => (s.buf, s.wc)) =
    some ([(3, 0x3E800000#32)], 0) := by decide
/-- Storing +0.0 takes the cell off the list. -/
theorem test_asrWr_zero : (nextOf (exec .asrWr { State.reset with
      wc := 2, buf := [(1, 5#32), (2, 6#32), (3, 7#32)], loc := { TickLocals.idle with edge := true } })).map
    (fun s => s.buf) = some [(1, 5#32), (3, 7#32)] := by decide
/-- T3 and T8. -/
theorem test_tap_addresses :
    [Stage.k1, .k2, .k3, .k4].map (tapAddress { withParams { Params.zero with bufIndex := 100, bufLen := 16 } with wc := 3 }) =
      [14, 10, 6, 2] ∧
    [Stage.k1, .k2, .k3, .k4].map (tapAddress { withParams { Params.zero with bufIndex := 5, bufLen := 13 } with wc := 7 }) =
      [1, 9, 4, 12] := by decide
/-- Program P4, point (c). -/
theorem test_taps : (nextOf (inOrder p4 [.asrTap1, .asrTap2, .asrTap3, .asrTap4])).map (fun s => s.loc.tap) =
    some ⟨0x3E800000#32, 0x3F800000#32, 0x3F400000#32, 0x3F000000#32⟩ := by decide
theorem test_asrNorm : (nextOf (exec .asrNorm { withParams { Params.zero with bufLen := 0x8000#16 } with wc := 7 })).map
    (fun s => s.wc) = some 3 := by decide
theorem test_out : (nextOf (exec .out { State.reset with loc := { TickLocals.idle with q := ⟨1, 2, 3, 4⟩ } })).map
    (fun s => s.out) = some ⟨1, 2, 3, 4⟩ := by decide

/-! ## Stepping -/

theorem test_step_fetches_a_command : (nextOf (step (State.withFetchWord { p4 with t := 3 } 8 3))).map (fun s => (s.t, s.buf)) =
    some (0, []) := by decide
theorem test_step_runs_a_selected_row : (nextOf (step (State.withFetchWord State.reset 16 7))).map
    (fun s => (s.t, s.params.src, s.params.bbEq, s.inbox)) = some (1, 1, 7, []) := by decide
theorem test_step_idles : nextOf (step p4) = some p4 := by decide

/-! ## Witnesses: a concrete state and operands that meet all hypotheses of a statement -/

/-- The empty scale, so that a TICK can be computed through. -/
def quiet : State := withParams { Params.zero with scale := 133, gain := 1 }

/-- A TICK of `quiet` with a high clock. -/
def quietHigh : State := after (exec (.tick 0x3F000000#32 0x40000000#32) quiet)

theorem quietHigh_eq : exec (.tick 0x3F000000#32 0x40000000#32) quiet = .next quietHigh := eq_next_of_nextOf (by decide)

theorem witness_StepRunsTheDecodedCommand : State.reset.inbox = [] ∧
    ({ State.reset with inbox := [tickPorts 1 2] }).inbox = tickPorts 1 2 :: [] ∧ encodePort (.tick 1 2) = some (tickPorts 1 2) := by
  decide

theorem witness_DecodeOfEncodeIsTheInstruction :
    Instr.wellFormed (.loadp { Params.zero with scale := 0xFFFF#16, seqStride := 0x8000#16 }) = true ∧
      Instr.wellFormed .bbEq15 = true ∧ Instr.wellFormed (.qntExo .k4) = true ∧ Instr.wellFormed .out = false := by decide +kernel

theorem witness_EveryStepKeepsTheInvariant :
    Inv { p4 with inbox := [rstPorts] } ∧ nextOf (step { p4 with inbox := [rstPorts] }) = some State.reset := by decide

theorem witness_OnlyItsWritersChangeARegister :
    exec .srcCv quiet = .next (after (exec .srcCv quiet)) ∧ (∀ cv clk, Instr.srcCv ≠ .tick cv clk) ∧
      (∀ p, Instr.srcCv ≠ .loadp p) :=
  ⟨eq_next_of_nextOf (by decide), by simp, by simp⟩

theorem witness_LoadpOfTheHeldSnapshotChangesNothing : cursor { State.reset with wc := 3 } < activeLen Params.zero ∧
    cursor { withParams { Params.zero with bufLen := 64 } with wc := 63 } < activeLen { Params.zero with bufLen := 64 } := by decide

/-- For TickPerformsRuleR189 and the statements that ask for a canonical buffer. -/
theorem witness_canonical_buffer : p4.buf.wf = true ∧ cursor p4 < activeLen p4.params ∧ p4.params.hold = 0 := by decide

/-- A first TICK with a NaN clock, then one with a high clock. -/
theorem witness_NaNClockBlindsTwoTicks : isNaN 0x7FC00000#32 = true ∧
    nextOf (exec (.tick 0x3F000000#32 0x7FC00000#32) quiet) = some { quiet with prev := 0x7FC00000#32 } ∧
    nextOf (exec (.tick 0x3F000000#32 0x40000000#32) { quiet with prev := 0x7FC00000#32 }) =
      some { quiet with prev := 0x40000000#32 } := by decide +kernel

theorem value_two : 1 < valueOf 0x40000000#32 := by
  have h : sunits 0x40000000#32 = 2 ^ 150 := by decide
  rw [valueOf, h]
  norm_num

theorem witness_HighClockGivesNoSecondEdge : isNaN 0x40000000#32 = false ∧ 1 < valueOf 0x40000000#32 ∧
    exec (.tick 0x3F000000#32 0x40000000#32) quiet = .next quietHigh ∧
    exec (.tick 0x3F000000#32 0x40000000#32) quietHigh = .next (after (exec (.tick 0x3F000000#32 0x40000000#32) quietHigh)) :=
  ⟨by decide, value_two, quietHigh_eq, eq_next_of_nextOf (by decide)⟩

/-- Hold engaged by -1, an edge in the one TICK and none in the other. -/
theorem witness_hold : ({ quiet.params with hold := 0xFFFF#16 }).hold ≠ 0 ∧
    nextOf (exec (.tick 0 0x40000000#32) (withParams { quiet.params with hold := 0xFFFF#16 })) =
      some { withParams { quiet.params with hold := 0xFFFF#16 } with prev := 0x40000000#32 } ∧
    nextOf (exec (.tick 0 0) (withParams { quiet.params with hold := 0xFFFF#16 })) =
      some (withParams { quiet.params with hold := 0xFFFF#16 }) := by decide +kernel

/-- Every clause of AsrWrStoresTheRawSample: an edge with hold off, no edge, an edge with hold on. -/
theorem witness_AsrWrStoresTheRawSample :
    p4.buf.wf = true ∧ ({ p4 with loc := { TickLocals.idle with edge := true } }).loc.edge = true ∧ p4.params.hold = 0 ∧
      p4.loc.edge = false ∧ ({ p4.params with hold := 1 }).hold ≠ 0 := by decide

/-- Two writes and a tap, at depth 0 and at depth 1. -/
theorem witness_NewestAndPreviousSampleReadBack :
    let s := withParams { Params.zero with bufIndex := 1 }
    let t := after (exec .asrWr { s with loc := { s.loc with edge := true, raw := 8 } })
    let u := after (exec .asrWr { t with loc := { t.loc with edge := true, raw := 9 } })
    s.buf.wf = true ∧ cursor s < activeLen s.params ∧ s.params.hold = 0 ∧ s.params.bufIndex = 1 ∧
      State.reset.params.bufIndex = 0 ∧
      nextOf (exec .asrWr { s with loc := { s.loc with edge := true, raw := 8 } }) = some t ∧
      nextOf (exec .asrWr { t with loc := { t.loc with edge := true, raw := 9 } }) = some u ∧
      (nextOf (exec .asrTap1 u)).isSome = true ∧ (after (exec .asrTap1 u)).loc.tap.s1 = 8 := by decide

theorem witness_WriteIsSeenByTheSameTick :
    quiet.buf.wf = true ∧ cursor quiet < activeLen quiet.params ∧ quiet.params.hold = 0 ∧ quiet.params.bufIndex = 0 ∧
      quiet.params.src = 0 ∧ risingEdge quiet.prev 0x40000000#32 = true ∧
      isNaN (fmul 0x40200000#32 (i2f quiet.params.gain.toInt)) = false ∧
      quantize device quiet.params [] (fmul 0x40200000#32 (i2f quiet.params.gain.toInt)) = some 0x40000000#32 ∧
      resolve device quiet.params.scale.toInt = [] ∧
      (nextOf (exec (.tick 0x40200000#32 0x40000000#32) quiet)).map (fun t => t.out) =
        some ⟨0x40000000#32, 0x40000000#32, 0x40000000#32, 0x40000000#32⟩ :=
  ⟨by decide, by decide, by decide, by decide, by decide, by decide, by decide, by decide, rfl, by decide +kernel⟩

theorem witness_TickWritesNoCellButTheCursors : quiet.buf.wf = true ∧ cursor quiet < activeLen quiet.params ∧
    exec (.tick 0x3F000000#32 0x40000000#32) quiet = .next quietHigh ∧ quietHigh.buf.read 0 = 0x3F000000#32 :=
  ⟨by decide, by decide, quietHigh_eq, by decide⟩

theorem witness_PulseWritesExactlyOnce : quiet.buf.wf = true ∧ quiet.params.hold = 0 ∧ fle quiet.prev f32One = true ∧
    exec (.tick 0x3F000000#32 clockHigh) quiet = .next quietHigh ∧
    exec (.tick 0x3F000000#32 clockLow) quietHigh = .next (after (exec (.tick 0x3F000000#32 clockLow) quietHigh)) :=
  ⟨by decide, by decide, by decide, quietHigh_eq, eq_next_of_nextOf (by decide)⟩

/-- Both clauses of SrcCvMultipliesByTheGain: 0.25 times 2, and an infinity times 0. -/
theorem witness_SrcCvMultipliesByTheGain : isNaN (fmul 0x3E800000#32 (i2f 2)) = false ∧ isNaN (fmul 0x7F800000#32 (i2f 0)) = true := by
  decide

theorem witness_UnitGainPassesAndZeroGainSilences : isNaN 0xFF800000#32 = false ∧ isFinite 0x80000000#32 = true := by decide

theorem witness_OtherSourcesResetTheStepper : quiet.params.src.toInt ≠ 2 ∧
    exec (.tick 0x3F000000#32 0x40000000#32) quiet = .next quietHigh := ⟨by decide, quietHigh_eq⟩

theorem witness_OutOfRangeEquationAnswersZero : (0xFFFF#16).toInt < 0 ∧ 16 ≤ (16#16).toInt := by decide

/-- The cursor at both ends of its range and inside; each clause of SEQ.LOOP and SEQ.PEND. -/
theorem witness_seq_cursor_range : -32769 ≤ (0xFFFF7FFF#32).toInt ∧ (0x0000FFFE#32).toInt ≤ 65534 ∧
    (10#16).toInt ≤ (9#32).toInt + (3#16).toInt ∧
    (0#32).toInt + (0xFFFF#16).toInt < (10#16).toInt ∧ (0#32).toInt + (0xFFFF#16).toInt < 0 ∧
    (6#32).toInt + (3#16).toInt < (10#16).toInt ∧ 0 ≤ (6#32).toInt + (3#16).toInt ∧
    (0#32).toInt ≤ 0 ∧ 0 < (4#32).toInt ∧ (5#16).toInt - 1 ≤ (4#32).toInt ∧ (3#32).toInt < (5#16).toInt - 1 := by decide

theorem witness_SeqScaleReducesAndDividesByTwelve : 1 ≤ (12#16).toInt ∧ (0 : Int) ≤ 31 ∧ (0#16).toInt ≤ 0 ∧ (-1 : Int) < 0 := by
  decide

/-- Program P3's parameters with the empty scale. -/
def swing : State := withParams { Params.zero with scale := 133, src := 2, seqDir := 1, seqStride := 1, seqLen := 5, seqMod := 12 }

theorem witness_PendulumWalksUpAndDownForEver : swing.params.src = 2 ∧ swing.params.seqDir = 1 ∧ swing.params.seqStride = 1 ∧
    2 ≤ 5 ∧ swing.params.seqLen.toInt = (5 : Nat) ∧ swing.cur = 0 ∧ swing.dir = false ∧ 1 ≤ [((0 : F32), (0 : F32))].length := by
  decide

theorem witness_EmptyWindowRestartsEveryTick :
    ({ swing.params with seqLen := 0 }).src = 2 ∧ ({ swing.params with seqLen := 0 }).seqLen.toInt ≤ 0 ∧
    ({ swing.params with seqLen := 0 }).seqDir = 1 ∧ ({ swing.params with seqDir := 2 }).seqDir ≠ 1 ∧
    (0#16).toInt ≤ (1#16).toInt ∧ (0xFFFF#16).toInt < (0#16).toInt ∧
    (nextOf (exec (.tick 0 0) (withParams { swing.params with seqLen := 0, seqMod := 0 }))).isSome = true := by decide

theorem witness_EvaluateFirstReadsBeforeTheAdvance : ({ tc with advanceFirst := false }).advanceFirst = false := rfl

/-- Both wraps: W5's stride and length. -/
theorem witness_LoopWalkUnderBothWraps : State.reset.cur = 0 ∧ 1 ≤ 10 ∧ (10#16).toInt = (10 : Nat) ∧
    ({ tc with loopWrap := .modulo }).loopWrap = .modulo ∧ tc.loopWrap = .toZero ∧ (3#16).toInt = (3 : Nat) ∧ 1 ≤ 3 ∧ 3 < 10 := by
  decide

/-- 2.5 is in the domain; the least and greatest index of each scale class (QuantizerPicksTheFirstNearestEntry,
QntEmptyAnswersTheOctaveFloor). -/
theorem witness_quantizer_domain : inDomain (fround .halfAway (fmul 0x40200000#32 f32Twelve)) = true ∧
    (0#16).toInt = (0 : Fin 16).val ∧ (15#16).toInt = (15 : Fin 16).val ∧
    (16#16).toInt = (0 : Fin 117).val + 16 ∧ (132#16).toInt = (116 : Fin 117).val + 16 := by decide

/-- 2.5 is semitone 30, whose octave floor 24 is exact. -/
theorem witness_QntEmptyAnswersTheOctaveFloor :
    f2i (fround .halfAway (fmul 0x40200000#32 f32Twelve)) + (0#16).toInt + (0#16).toInt = 30 ∧
      valueOf (i2f (12 * (30 / 12))) = (12 * (30 / 12) : Int) := by
  refine ⟨by decide, ?_⟩
  have h : sunits (i2f (12 * (30 / 12))) = 24 * 2 ^ 149 := by decide
  rw [valueOf, h]
  norm_num

theorem witness_IntegralEntriesRotateToPitchClasses : entryOk 0x41400000#32 = true ∧ entryIntegral 0x41400000#32 = true := by decide

/-- An infinity is outside the domain, and so is 1.0e9 times 12. -/
theorem witness_QuantizerOutsideItsDomainIsAnyValue : isFinite 0x7F800000#32 = false ∧
    2 ^ 30 < |valueOf (fround .halfAway (fmul 0x4E6E6B28#32 f32Twelve))| := by
  refine ⟨by decide, ?_⟩
  have h : sunits (fround .halfAway (fmul 0x4E6E6B28#32 f32Twelve)) = 12000000000 * 2 ^ 149 := by decide
  rw [valueOf, h]
  norm_num

/-- W2: 0.5 in Major. -/
theorem witness_QuantizerIsIdempotentOnIntegralScales :
    Params.zero.root.toInt + Params.zero.transpose.toInt = 0 ∧ scaleOk major = true ∧ major.all entryIntegral = true ∧
      |semitoneCount Params.zero (semitones device 0x3F000000#32)| ≤ 2 ^ 20 ∧
      quantize device Params.zero major 0x3F000000#32 = some 0x3ED55555#32 := by decide

theorem value_zero : valueOf 0 = 0 := by
  have h : sunits 0 = 0 := by decide
  rw [valueOf, h]
  norm_num

theorem witness_ArithmeticIsCorrectlyRounded : isFinite 0x40000000#32 = true ∧ isFinite 0 = true ∧
    |valueOf 0 + valueOf 0| < overflowBound ∧ |valueOf 0 - valueOf 0| < overflowBound ∧
    |valueOf 0 * valueOf 0x40000000#32| < overflowBound ∧ valueOf 0x40000000#32 ≠ 0 ∧
    |valueOf 0 / valueOf 0x40000000#32| < overflowBound ∧ |((7 : Int) : ℚ)| < overflowBound := by
  have h2 := value_two
  have hb : (7 : ℚ) < overflowBound := by unfold overflowBound; norm_num
  refine ⟨by decide, by decide, ?_, ?_, ?_, ?_, ?_, ?_⟩
  · rw [value_zero]; simp; linarith
  · rw [value_zero]; simp; linarith
  · rw [value_zero]; simp; linarith
  · linarith
  · rw [value_zero]; simp; linarith
  · norm_num; exact hb

/-- A tie and a value in `[0, 12)`. -/
theorem witness_rounding : isFinite 0x40200000#32 = true ∧ 0 ≤ valueOf 0x40000000#32 ∧ valueOf 0x40000000#32 < 12 := by
  have h : sunits 0x40000000#32 = 2 ^ 150 := by decide
  refine ⟨by decide, ?_, ?_⟩ <;> rw [valueOf, h] <;> norm_num

theorem witness_CvDoesNotReachGeneratedSources : (1#16).toInt = 1 ∧ (2#16).toInt = 2 := by decide

/-- Each clause of the hypotheses: the sequence with a legal modulus and tables without a negative entry, and the CV source. -/
theorem witness_QuantizerDrawsReachOnlyTheOutputs :
    swing.params.src.toInt = 2 ∧ 1 ≤ swing.params.seqMod.toInt ∧ (∀ table a, 0 ≤ tc.seqRom table a) ∧
      quiet.params.src.toInt ≠ 1 ∧ quiet.params.src.toInt ≠ 2 ∧ isNaN (fmul 0x3F000000#32 (tc.gainMap quiet.params.gain)) = false ∧
      (nextOf (tick tc 0x3F000000#32 0x40000000#32 swing)).isSome = true ∧
      (nextOf (tick { tc with draw := fun _ => 0 } 0x3F000000#32 0x40000000#32 quiet)).isSome = true :=
  ⟨by decide, by decide, fun table a => by simp only [tc]; omega, by decide, by decide, by decide, by decide, by decide⟩

/-- An index of each class of TheScaleLibraryMeetsR101: standard, exotic, and none on either side. -/
theorem witness_TheScaleLibraryMeetsR101 : (0 ≤ (15 : Int) ∧ (15 : Int) ≤ 15) ∧ (16 ≤ (132 : Int) ∧ (132 : Int) ≤ 132) ∧
    (-1 : Int) < 0 ∧ 132 < (133 : Int) := by decide

/-- Both clauses of CounterWidthIsAParameter: two widths whose counters agree in bits 15:0. -/
theorem witness_CounterWidthIsAParameter : ({ State.zero 16 with t := 0x0101#16 }).t.toNat % 2 ^ 16 =
    ({ State.reset with t := 0x77770101#32 }).t.toNat % 2 ^ 16 := by decide

theorem witness_LegalModulusLeavesNothingFree : 1 ≤ swing.params.seqMod.toInt := by decide

end Sys2Proof.Tests
end

section
/-! PROOFS. Correct rounding (R17): the arithmetic primitives answer the nearest sample, ties to even. -/

namespace Sys2Proof.Machine

/-! ## The nearest integer, ties to even -/

theorem nearestEven_bounds (num den : ℕ) :
    num / den ≤ nearestEven num den ∧ nearestEven num den ≤ num / den + 1 := by
  simp only [nearestEven]
  split <;> omega

/-- The rounding error is at most half the denominator, and at an exact half the answer is even. -/
theorem nearestEven_error (num : ℕ) {den : ℕ} (hd : 0 < den) :
    2 * |(nearestEven num den * den - num : ℤ)| ≤ den ∧
      (2 * |(nearestEven num den * den - num : ℤ)| = den → nearestEven num den % 2 = 0) := by
  have hdiv : (num : ℤ) = (num / den : ℕ) * den + (num % den : ℕ) := by
    exact_mod_cast (Nat.div_add_mod' num den).symm
  have hmod : num % den < den := Nat.mod_lt _ hd
  simp only [nearestEven]
  split
  · have herr : (((num / den + 1 : ℕ) : ℤ) * den - num : ℤ) = den - (num % den : ℕ) := by
      rw [hdiv]; push_cast; ring
    rw [herr, abs_of_nonneg (by omega)]
    omega
  · have herr : (((num / den : ℕ) : ℤ) * den - num : ℤ) = -(num % den : ℕ) := by
      conv_lhs => rw [hdiv]
      ring
    rw [herr, abs_neg, Nat.abs_cast]
    omega

/-- No integer is nearer, and one as near leaves the answer even. -/
theorem nearestEven_nearest (num : ℕ) {den : ℕ} (hd : 0 < den) (k : ℕ) :
    |(nearestEven num den * den - num : ℤ)| ≤ |(k * den - num : ℤ)| ∧
      (k ≠ nearestEven num den → |(k * den - num : ℤ)| = |(nearestEven num den * den - num : ℤ)| →
        nearestEven num den % 2 = 0) := by
  obtain ⟨herr, htie⟩ := nearestEven_error num hd
  generalize nearestEven num den = n at *
  by_cases hk : k = n
  · subst hk
    simp
  · have hgap : (den : ℤ) ≤ |(k * den - n * den : ℤ)| := by
      rw [← sub_mul, abs_mul, Nat.abs_cast]
      have : 1 ≤ |(k - n : ℤ)| := Int.one_le_abs (by omega)
      nlinarith
    have htri := abs_sub_le (k * den : ℤ) num (n * den)
    rw [abs_sub_comm (num : ℤ) (n * den)] at htri
    exact ⟨by omega, fun _ heq => htie (by omega)⟩

/-! ## Magnitudes with an unbounded exponent -/

/-- The value of the magnitude bits `mag` in multiples of `2^-149` (R92), the exponent field unbounded. -/
def magUnits (mag : ℕ) : ℕ := if mag < 2 ^ 23 then mag else (2 ^ 23 + mag % 2 ^ 23) * 2 ^ (mag / 2 ^ 23 - 1)

theorem units_eq_magUnits (x : F32) : units x = magUnits (magBits x) := rfl

/-- Exponent and significand assembled as `roundMag` does; a significand of `2^24` carries into the exponent. -/
theorem magUnits_assemble {e n : ℕ} (hlo : e = 0 ∨ 2 ^ 23 ≤ n) (hhi : n ≤ 2 ^ 24) :
    magUnits (e * 2 ^ 23 + n) = n * 2 ^ e := by
  unfold magUnits
  rcases Nat.lt_or_ge n (2 ^ 23) with hsub | hnorm
  · obtain rfl : e = 0 := by omega
    rw [Nat.zero_mul, Nat.zero_add, if_pos hsub, pow_zero, Nat.mul_one]
  · rw [if_neg (by omega)]
    rcases Nat.lt_or_ge n (2 ^ 24) with hlt | hge
    · rw [show (e * 2 ^ 23 + n) / 2 ^ 23 - 1 = e by omega, show (e * 2 ^ 23 + n) % 2 ^ 23 = n - 2 ^ 23 by omega,
        Nat.add_sub_cancel' hnorm]
    · obtain rfl : n = 2 ^ 24 := by omega
      rw [show (e * 2 ^ 23 + 2 ^ 24) / 2 ^ 23 - 1 = e + 1 by omega, show (e * 2 ^ 23 + 2 ^ 24) % 2 ^ 23 = 0 by omega]
      ring

/-- A magnitude is on the grid of spacing `2^e`, or it lies below the binade of that spacing. -/
theorem magUnits_grid (e m : ℕ) : (∃ k, magUnits m = k * 2 ^ e) ∨ magUnits m < 2 ^ 23 * 2 ^ e := by
  unfold magUnits
  split
  · next hsub =>
    right
    calc m < 2 ^ 23 := hsub
      _ ≤ 2 ^ 23 * 2 ^ e := Nat.le_mul_of_pos_right _ (by positivity)
  · next hnorm =>
    rcases Nat.lt_or_ge (m / 2 ^ 23 - 1) e with hlt | hge
    · right
      obtain ⟨d, rfl⟩ : ∃ d, e = (m / 2 ^ 23 - 1) + 1 + d := ⟨e - (m / 2 ^ 23), by omega⟩
      calc (2 ^ 23 + m % 2 ^ 23) * 2 ^ (m / 2 ^ 23 - 1)
          < 2 ^ 24 * 2 ^ (m / 2 ^ 23 - 1) := Nat.mul_lt_mul_of_pos_right (by omega) (by positivity)
        _ = 2 ^ 23 * 2 ^ (m / 2 ^ 23 - 1 + 1) := by ring
        _ ≤ 2 ^ 23 * 2 ^ (m / 2 ^ 23 - 1 + 1 + d) :=
          Nat.mul_le_mul_left _ (Nat.pow_le_pow_right (by norm_num) (Nat.le_add_right _ _))
    · left
      obtain ⟨d, hd⟩ := Nat.exists_eq_add_of_le hge
      exact ⟨(2 ^ 23 + m % 2 ^ 23) * 2 ^ d, by rw [hd, pow_add]; ring⟩

/-! ## Rounding a magnitude -/

/-- The quantum exponent `roundMag` takes. -/
def quantumExp (num den : ℕ) : ℕ := (num / den).log2 - 23

/-- What does not overflow is the exponent and the rounded significand, assembled. -/
theorem roundMag_of_lt {num den : ℕ}
    (h : quantumExp num den * 2 ^ 23 + nearestEven num (den * 2 ^ quantumExp num den) < 0x7F800000) :
    roundMag num den = quantumExp num den * 2 ^ 23 + nearestEven num (den * 2 ^ quantumExp num den) :=
  if_neg (not_le.2 h)

/-- The quotient has at most 24 bits in that quantum. -/
theorem lt_of_quantumExp (num : ℕ) {den : ℕ} (hd : 0 < den) :
    num < 2 ^ 24 * (den * 2 ^ quantumExp num den) := by
  have hlog : num / den < 2 ^ ((num / den).log2 + 1) := Nat.lt_log2_self
  have hpow : 2 ^ ((num / den).log2 + 1) ≤ 2 ^ (24 + quantumExp num den) :=
    Nat.pow_le_pow_right (by norm_num) (by unfold quantumExp; omega)
  have hnum := (Nat.div_lt_iff_lt_mul hd).1 (hlog.trans_le hpow)
  calc num < 2 ^ (24 + quantumExp num den) * den := hnum
    _ = 2 ^ 24 * (den * 2 ^ quantumExp num den) := by ring

/-- And no fewer, unless the quantum is the least one. -/
theorem le_of_quantumExp_pos {num den : ℕ} (hd : 0 < den) (he : 0 < quantumExp num den) :
    2 ^ 23 * (den * 2 ^ quantumExp num den) ≤ num := by
  have hne : num / den ≠ 0 := by
    intro h
    simp [quantumExp, h] at he
  have hlog := (Nat.le_div_iff_mul_le hd).1 (Nat.log2_self_le hne)
  calc 2 ^ 23 * (den * 2 ^ quantumExp num den) = 2 ^ (23 + quantumExp num den) * den := by ring
    _ = 2 ^ (num / den).log2 * den := by
      rw [show 23 + quantumExp num den = (num / den).log2 by unfold quantumExp at *; omega]
    _ ≤ num := hlog

/-- The rounded significand has at most 24 bits or is `2^24`, and is normal unless the quantum is the least one. -/
theorem significand_bounds (num : ℕ) {den : ℕ} (hd : 0 < den) :
    (quantumExp num den = 0 ∨ 2 ^ 23 ≤ nearestEven num (den * 2 ^ quantumExp num den)) ∧
      nearestEven num (den * 2 ^ quantumExp num den) ≤ 2 ^ 24 := by
  have hD : 0 < den * 2 ^ quantumExp num den := by positivity
  obtain ⟨hlo, hhi⟩ := nearestEven_bounds num (den * 2 ^ quantumExp num den)
  have hlt := (Nat.div_lt_iff_lt_mul hD).2 (lt_of_quantumExp num hd)
  refine ⟨?_, by omega⟩
  rcases Nat.eq_zero_or_pos (quantumExp num den) with h0 | hpos
  · exact .inl h0
  · exact .inr (((Nat.le_div_iff_mul_le hD).2 (le_of_quantumExp_pos hd hpos)).trans hlo)

/-- Below the overflow bound the quantum is at most that of the largest finite samples. -/
theorem quantumExp_le {num den : ℕ} (hd : 0 < den) (hb : num < (2 ^ 25 - 1) * 2 ^ 252 * den) :
    quantumExp num den ≤ 253 := by
  by_contra hbig
  have hlo := le_of_quantumExp_pos (num := num) hd (by omega)
  have hpow : 2 ^ 254 ≤ 2 ^ quantumExp num den := Nat.pow_le_pow_right (by norm_num) (by omega)
  have hmul : den * 2 ^ 254 ≤ den * 2 ^ quantumExp num den := Nat.mul_le_mul_left den hpow
  omega

/-- In that quantum the significand does not reach `2^24`: the overflow bound is half a quantum below. -/
theorem significand_ne_top {num den : ℕ} (hd : 0 < den) (hb : num < (2 ^ 25 - 1) * 2 ^ 252 * den) :
    nearestEven num (den * 2 ^ 253) ≠ 2 ^ 24 := by
  intro htop
  have herr := (nearestEven_error num (den := den * 2 ^ 253) (by positivity)).1
  have habs := le_abs_self ((nearestEven num (den * 2 ^ 253) * (den * 2 ^ 253 : ℕ) - num : ℤ))
  rw [htop] at herr habs
  push_cast at herr habs
  omega

/-- Below the overflow bound the rounded magnitude is that of a finite sample. -/
theorem assembled_lt_inf {num den : ℕ} (hd : 0 < den) (hb : num < (2 ^ 25 - 1) * 2 ^ 252 * den) :
    quantumExp num den * 2 ^ 23 + nearestEven num (den * 2 ^ quantumExp num den) < 0x7F800000 := by
  have hhi := (significand_bounds num hd).2
  rcases (quantumExp_le hd hb).lt_or_eq with hlt | heq
  · omega
  · have := significand_ne_top hd hb
    rw [heq] at hhi ⊢
    omega

/-- What lies below the binade of `num` is farther from it than the least significand of that binade. -/
theorem abs_sub_lt_of_below_binade {m D num : ℕ} (hm : m < 2 ^ 23 * D) (hD : 2 ^ 23 * D ≤ num) :
    |((2 ^ 23 : ℕ) * D - num : ℤ)| < |(m - num : ℤ)| := by
  rw [abs_of_nonpos (by omega), abs_of_nonpos (by omega)]
  omega

/-- Below the overflow bound `roundMag` answers the magnitude bits of a finite sample, nearer to `num / den` than which no
magnitude is, and even when another is as near. -/
theorem roundMag_nearest {num den : ℕ} (hd : 0 < den) (hb : num < (2 ^ 25 - 1) * 2 ^ 252 * den) :
    roundMag num den < 0x7F800000 ∧ ∀ m,
      |(magUnits (roundMag num den) * den - num : ℤ)| ≤ |(magUnits m * den - num : ℤ)| ∧
      (magUnits m ≠ magUnits (roundMag num den) →
        |(magUnits m * den - num : ℤ)| = |(magUnits (roundMag num den) * den - num : ℤ)| →
        roundMag num den % 2 = 0) := by
  have hfin := assembled_lt_inf hd hb
  obtain ⟨hnorm, hhi⟩ := significand_bounds num hd
  rw [roundMag_of_lt hfin, magUnits_assemble hnorm hhi]
  refine ⟨hfin, fun m => ?_⟩
  have hnear := nearestEven_nearest num (den := den * 2 ^ quantumExp num den) (by positivity)
  have hlow := fun h => le_of_quantumExp_pos (num := num) hd h
  have hgrid := magUnits_grid (quantumExp num den) m
  generalize nearestEven num (den * 2 ^ quantumExp num den) = n at *
  generalize quantumExp num den = e at *
  have hscale : ∀ k : ℕ, ((k * 2 ^ e : ℕ) * den - num : ℤ) = k * (den * 2 ^ e : ℕ) - num := by
    intro k; push_cast; ring
  rw [hscale]
  by_cases hon : ∃ k, magUnits m = k * 2 ^ e
  · obtain ⟨k, hk⟩ := hon
    rw [hk, hscale]
    obtain ⟨hle, htie⟩ := hnear k
    refine ⟨hle, fun hne heq => ?_⟩
    have : n % 2 = 0 := htie (fun h => hne (by rw [h])) heq
    omega
  · have hbelow : magUnits m < 2 ^ 23 * 2 ^ e := hgrid.resolve_left hon
    have he : 0 < e := Nat.pos_of_ne_zero fun h => hon ⟨magUnits m, by simp [h]⟩
    have hfar := abs_sub_lt_of_below_binade (m := magUnits m * den) (D := den * 2 ^ e) (num := num)
      (calc magUnits m * den < 2 ^ 23 * 2 ^ e * den := Nat.mul_lt_mul_of_pos_right hbelow hd
        _ = 2 ^ 23 * (den * 2 ^ e) := by ring) (hlow he)
    rw [Nat.cast_mul (magUnits m)] at hfar
    have hle := (hnear (2 ^ 23)).1
    exact ⟨by linarith, fun _ heq => absurd heq (by linarith)⟩

end Sys2Proof.Machine
end

section
/-! PROOFS. Correct rounding of signed values (R17), and of the five primitives. -/

namespace Sys2Proof.Machine

/-! ## Signed values -/

/-- The integer with the given sign and magnitude. -/
def applySign (neg : Bool) (n : ℕ) : ℤ := if neg then -(n : ℤ) else (n : ℤ)

theorem sunits_eq_applySign (x : F32) : sunits x = applySign (signBit x) (units x) := rfl

@[simp] theorem natAbs_applySign (neg : Bool) (n : ℕ) : (applySign neg n).natAbs = n := by
  cases neg <;> simp [applySign]

theorem applySign_natAbs (z : ℤ) : applySign (decide (z < 0)) z.natAbs = z := by
  by_cases h : z < 0
  · simp only [applySign, h, decide_true, if_true]
    omega
  · simp only [applySign, h, decide_false, Bool.false_eq_true, if_false]
    omega

/-- The sign of a product is the exclusive or of the signs. -/
theorem applySign_mul (p q : Bool) (m n : ℕ) : applySign p m * applySign q n = applySign (p != q) (m * n) := by
  cases p <;> cases q <;> simp [applySign]

theorem abs_valueOf (x : F32) : |valueOf x| * 2 ^ 149 = units x := by
  have habs : (|sunits x| : ℤ) = units x := by
    rw [Int.abs_eq_natAbs, sunits_eq_applySign, natAbs_applySign]
  rw [valueOf, abs_div, abs_of_pos (by positivity : (0 : ℚ) < 2 ^ 149), div_mul_cancel₀ _ (by positivity), ← Int.cast_abs,
    habs, Int.cast_natCast]

/-- Distances between samples and a number are compared as integers, over a common denominator. -/
theorem abs_valueOf_sub {y : ℚ} {den : ℕ} {z : ℤ} (hy : y * (2 ^ 149 * den) = z) (f : F32) :
    |valueOf f - y| * (2 ^ 149 * den) = (|sunits f * den - z| : ℤ) := by
  have hscale : (valueOf f - y) * (2 ^ 149 * den) = (sunits f * den - z : ℤ) := by
    rw [sub_mul, hy, valueOf, div_mul_eq_mul_div, ← mul_assoc, mul_right_comm, mul_div_assoc, div_self (by positivity)]
    push_cast
    ring
  rw [Int.cast_abs, ← hscale, abs_mul, abs_of_nonneg (by positivity : (0 : ℚ) ≤ 2 ^ 149 * den)]

theorem valueOf_inj_sunits {x y : F32} : valueOf x = valueOf y ↔ sunits x = sunits y := by
  rw [valueOf, valueOf, div_left_inj' (by positivity)]
  exact Int.cast_inj

/-- The parity of a pattern is that of its magnitude bits. -/
theorem toNat_withSign_mod_two (neg : Bool) {mag : ℕ} (h : mag < 2 ^ 31) : (withSign neg mag).toNat % 2 = mag % 2 := by
  rw [toNat_withSign neg h]
  split <;> omega

/-- If no magnitude `a` is nearer to `num / den` than `r`, no signed magnitude is nearer to the signed quotient; and one as
near is as near without its sign, unless it is `r` itself. -/
theorem applySign_nearest {num den r a : ℕ} (hd : 0 < den) (neg q : Bool)
    (hzero : |(r * den - num : ℤ)| ≤ num) (hle : |(r * den - num : ℤ)| ≤ |(a * den - num : ℤ)|) :
    |applySign neg r * den - applySign neg num| ≤ |applySign q a * den - applySign neg num| ∧
      (applySign q a ≠ applySign neg r →
        |applySign q a * den - applySign neg num| = |applySign neg r * den - applySign neg num| →
        a ≠ r ∧ |(a * den - num : ℤ)| = |(r * den - num : ℤ)|) := by
  have hsame : ∀ m : ℕ, |applySign neg m * den - applySign neg num| = |(m * den - num : ℤ)| := by
    intro m
    cases neg
    · rfl
    · rw [← abs_neg]
      simp [applySign, neg_mul, sub_eq_add_neg, add_comm]
  rw [hsame]
  by_cases hq : q = neg
  · subst hq
    rw [hsame]
    exact ⟨hle, fun hne heq => ⟨fun h => hne (by rw [h]), heq⟩⟩
  · have hopp : |applySign q a * den - applySign neg num| = (a * den + num : ℤ) := by
      have : (0 : ℤ) ≤ a * den + num := by positivity
      rw [← abs_of_nonneg this]
      cases q <;> cases neg <;> simp only [applySign, not_true_eq_false, reduceCtorEq] at hq ⊢
      · simp
      · rw [← abs_neg]
        simp [add_comm]
    have htri : |(a * den - num : ℤ)| ≤ a * den + num := by
      rw [abs_le]
      have : (0 : ℤ) ≤ a * den := by positivity
      omega
    rw [hopp]
    refine ⟨hle.trans htri, fun hne heq => ?_⟩
    have ha : a * den = 0 := by
      have : (0 : ℤ) ≤ a * den := by positivity
      zify
      omega
    obtain rfl : a = 0 := (Nat.mul_eq_zero.1 ha).resolve_right hd.ne'
    refine ⟨?_, by omega⟩
    rintro rfl
    exact hne (by cases q <;> cases neg <;> rfl)

/-- `roundUnits` rounds correctly whatever lies below the overflow bound. -/
theorem isRounded_roundUnits {neg : Bool} {num den : ℕ} {y : ℚ} (hd : 0 < den)
    (hy : y * (2 ^ 149 * den) = applySign neg num) (hb : |y| < overflowBound) : IsRounded (roundUnits neg num den) y := by
  have hpos : (0 : ℚ) < 2 ^ 149 * den := by positivity
  have hnum : |y| * (2 ^ 149 * den) = num := by
    rw [← abs_of_pos hpos, ← abs_mul, hy, ← Int.cast_abs, Int.abs_eq_natAbs, natAbs_applySign, Int.cast_natCast]
  have hbound : num < (2 ^ 25 - 1) * 2 ^ 252 * den := by
    have hlt := mul_lt_mul_of_pos_right hb hpos
    rw [hnum, overflowBound] at hlt
    have : (num : ℚ) < ((2 ^ 25 - 1) * 2 ^ 252 * den : ℕ) := by
      push_cast
      norm_num at hlt ⊢
      linarith
    exact_mod_cast this
  obtain ⟨hfin, hnear⟩ := roundMag_nearest hd hbound
  have hmag : roundMag num den < 2 ^ 31 := by omega
  have hr : sunits (roundUnits neg num den) = applySign neg (magUnits (roundMag num den)) := by
    rw [sunits_eq_applySign, units_eq_magUnits, roundUnits, signBit_withSign neg hmag, magBits_withSign neg hmag]
  have hzero := (hnear 0).1
  have h0 : magUnits 0 = 0 := rfl
  rw [h0, Nat.cast_zero, zero_mul, zero_sub, abs_neg, Nat.abs_cast] at hzero
  have hsigned := fun f : F32 => applySign_nearest hd neg (signBit f) hzero (hnear (magBits f)).1
  have hdist := abs_valueOf_sub hy
  refine ⟨?_, fun f _ => ?_, fun f _ hne heq => ?_⟩
  · rw [isFinite, roundUnits, magBits_withSign neg hmag]
    simpa using hfin
  · rw [← mul_le_mul_iff_left₀ hpos, hdist, hdist, hr]
    exact_mod_cast (hsigned f).1
  · rw [← mul_left_inj' hpos.ne', hdist, hdist, hr] at heq
    rw [Ne, valueOf_inj_sunits, hr] at hne
    obtain ⟨hmagne, hmageq⟩ := (hsigned f).2 hne (by exact_mod_cast heq)
    rw [roundUnits, toNat_withSign_mod_two neg hmag]
    exact (hnear (magBits f)).2 (fun h => hmagne h) hmageq

/-- A sample that stands for the number exactly is its rounding. -/
theorem isRounded_of_valueOf_eq {r : F32} {y : ℚ} (hr : isFinite r = true) (hy : valueOf r = y) : IsRounded r y := by
  subst hy
  refine ⟨hr, fun f _ => ?_, fun f _ hne heq => ?_⟩
  · simp
  · rw [sub_self, abs_zero, abs_eq_zero, sub_eq_zero] at heq
    exact absurd heq hne

/-! ## Negation -/

theorem magBits_fneg (x : F32) : magBits (fneg x) = magBits x := by
  have h : (fneg x).toNat % 2 ^ 31 = x.toNat % 2 ^ 31 := by
    rw [fneg, BitVec.toNat_xor, Nat.xor_mod_two_pow]
    simp
  exact h

theorem signBit_fneg (x : F32) : signBit (fneg x) = !signBit x := by
  simp [signBit, fneg]

@[simp] theorem isFinite_fneg (x : F32) : isFinite (fneg x) = isFinite x := by rw [isFinite, magBits_fneg, isFinite]

@[simp] theorem valueOf_fneg (x : F32) : valueOf (fneg x) = -valueOf x := by
  have h : sunits (fneg x) = -sunits x := by
    rw [sunits_eq_applySign, sunits_eq_applySign, signBit_fneg, units_eq_magUnits, units_eq_magUnits, magBits_fneg]
    cases signBit x <;> simp [applySign]
  rw [valueOf, h, valueOf, Int.cast_neg, neg_div]

/-! ## The primitives -/

theorem fadd_of_finite {a b : F32} (ha : isFinite a = true) (hb : isFinite b = true) :
    fadd a b = if sunits a + sunits b = 0 then withSign (signBit a && signBit b) 0
      else roundUnits (decide (sunits a + sunits b < 0)) (sunits a + sunits b).natAbs 1 := by
  simp [fadd, isFinite_not_isNaN, isFinite_not_isInf, ha, hb]

theorem fmul_of_finite {a b : F32} (ha : isFinite a = true) (hb : isFinite b = true) :
    fmul a b = roundUnits (signBit a != signBit b) (units a * units b) oneUnits := by
  simp [fmul, isFinite_not_isNaN, isFinite_not_isInf, ha, hb]

theorem fdiv_of_finite {a b : F32} (ha : isFinite a = true) (hb : isFinite b = true) (h0 : units b ≠ 0) :
    fdiv a b = roundUnits (signBit a != signBit b) (units a * oneUnits) (units b) := by
  simp [fdiv, isFinite_not_isNaN, isFinite_not_isInf, ha, hb, h0]

/-- A zero of either sign is finite and stands for 0. -/
theorem valueOf_withSign_zero (neg : Bool) : isFinite (withSign neg 0) = true ∧ valueOf (withSign neg 0) = 0 := by
  have h : isFinite (withSign neg 0) = true ∧ sunits (withSign neg 0) = 0 := by cases neg <;> decide
  exact ⟨h.1, by rw [valueOf, h.2, Int.cast_zero, zero_div]⟩

theorem valueOf_add (a b : F32) : valueOf a + valueOf b = (sunits a + sunits b : ℤ) / 2 ^ 149 := by
  rw [valueOf, valueOf, ← add_div, Int.cast_add]

theorem isRounded_fadd {a b : F32} (ha : isFinite a = true) (hb : isFinite b = true)
    (h : |valueOf a + valueOf b| < overflowBound) : IsRounded (fadd a b) (valueOf a + valueOf b) := by
  rw [fadd_of_finite ha hb]
  split
  · next hz =>
    obtain ⟨hfin, hval⟩ := valueOf_withSign_zero (signBit a && signBit b)
    exact isRounded_of_valueOf_eq hfin (by rw [hval, valueOf_add, hz, Int.cast_zero, zero_div])
  · refine isRounded_roundUnits one_pos ?_ h
    rw [applySign_natAbs, valueOf_add, Nat.cast_one, mul_one, div_mul_cancel₀ _ (by positivity)]

theorem isRounded_fsub {a b : F32} (ha : isFinite a = true) (hb : isFinite b = true)
    (h : |valueOf a - valueOf b| < overflowBound) : IsRounded (fsub a b) (valueOf a - valueOf b) := by
  rw [sub_eq_add_neg, ← valueOf_fneg] at h ⊢
  exact isRounded_fadd ha (by rwa [isFinite_fneg]) h

theorem isRounded_fmul {a b : F32} (ha : isFinite a = true) (hb : isFinite b = true)
    (h : |valueOf a * valueOf b| < overflowBound) : IsRounded (fmul a b) (valueOf a * valueOf b) := by
  rw [fmul_of_finite ha hb]
  refine isRounded_roundUnits (by unfold oneUnits; positivity) ?_ h
  rw [← applySign_mul, ← sunits_eq_applySign, ← sunits_eq_applySign, valueOf, valueOf, Int.cast_mul, oneUnits,
    Nat.cast_pow, Nat.cast_ofNat]
  field_simp

theorem isRounded_fdiv {a b : F32} (ha : isFinite a = true) (hb : isFinite b = true) (h0 : valueOf b ≠ 0)
    (h : |valueOf a / valueOf b| < overflowBound) : IsRounded (fdiv a b) (valueOf a / valueOf b) := by
  have hub : (units b : ℚ) ≠ 0 := by
    rw [← abs_valueOf]
    positivity
  have hsb : (sunits b : ℚ) ≠ 0 := fun hz => h0 (by rw [valueOf, hz, zero_div])
  have hub' : units b ≠ 0 := by exact_mod_cast hub
  rw [fdiv_of_finite ha hb hub']
  refine isRounded_roundUnits (Nat.pos_of_ne_zero hub') ?_ h
  have hden : (applySign (signBit b) oneUnits : ℚ) * sunits b = 2 ^ 149 * units b := by
    rw [sunits_eq_applySign, ← Int.cast_mul, applySign_mul, bne_self_eq_false, applySign, oneUnits]
    push_cast
    ring
  rw [← applySign_mul, ← sunits_eq_applySign, ← hden, valueOf, valueOf, Int.cast_mul]
  field_simp

theorem isRounded_i2f {n : ℤ} (h : |(n : ℚ)| < overflowBound) : IsRounded (i2f n) n := by
  refine isRounded_roundUnits one_pos ?_ h
  have hsign : applySign (decide (n < 0)) (n.natAbs * oneUnits) = n * (2 ^ 149 : ℕ) := by
    conv_rhs => rw [← applySign_natAbs n]
    rw [show ((2 ^ 149 : ℕ) : ℤ) = applySign false oneUnits from rfl, applySign_mul, Bool.bne_false]
  rw [hsign]
  push_cast
  ring

/-- Settles O52: each primitive computes the exact result as a signed quotient and rounds it by `roundUnits`. -/
theorem arithmeticIsCorrectlyRounded : Obligations.ArithmeticIsCorrectlyRounded :=
  ⟨fun _ _ ha hb => ⟨isRounded_fadd ha hb, isRounded_fsub ha hb, isRounded_fmul ha hb, isRounded_fdiv ha hb⟩,
    fun _ => isRounded_i2f⟩

end Sys2Proof.Machine
end

section
/-! PROOFS. The remainder modulo 12 (R17). -/

namespace Sys2Proof.Machine

theorem sunits_zero : sunits 0 = 0 := by decide

theorem sunits_twelve : sunits f32Twelve = (12 * oneUnits : ℕ) := by decide

/-- The range test of `fmod12` is the one of R17, on the number. -/
theorem fmod12_test_iff {x : F32} (h : isFinite x = true) :
    (fle 0 x && flt x f32Twelve) = true ↔ 0 ≤ valueOf x ∧ valueOf x < 12 := by
  have h0 : isNaN 0 = false := by decide
  have h12 : isNaN f32Twelve = false := by decide
  have hpos : (0 : ℚ) < 2 ^ 149 := by positivity
  rw [valueOf, le_div_iff₀ hpos, div_lt_iff₀ hpos, zero_mul]
  simp only [fle, flt, isFinite_not_isNaN h, h0, h12, sunits_zero, sunits_twelve, Bool.not_false, Bool.true_and,
    Bool.and_eq_true, decide_eq_true_eq, oneUnits]
  norm_cast

theorem fmod12_of_mem {x : F32} (h : isFinite x = true) (h0 : 0 ≤ valueOf x) (h12 : valueOf x < 12) : fmod12 x = x := by
  rw [fmod12, h, (fmod12_test_iff h).2 ⟨h0, h12⟩]
  rfl

theorem fmod12_of_not_mem {x : F32} (h : isFinite x = true) (hx : ¬(0 ≤ valueOf x ∧ valueOf x < 12)) :
    fmod12 x = roundUnits false (emod (sunits x) (12 * oneUnits : ℕ)).natAbs 1 := by
  rw [fmod12, h, if_neg (by simp), if_neg (by rwa [fmod12_test_iff h])]

theorem floor_valueOf_div_twelve (x : F32) : ⌊valueOf x / 12⌋ = sunits x / (12 * oneUnits : ℕ) := by
  rw [← Rat.floor_intCast_div_natCast, valueOf, div_div, oneUnits]
  norm_num

/-- The exact remainder of R17 in multiples of `2^-149`. -/
theorem valueOf_sub_twelve_mul_floor (x : F32) :
    (valueOf x - 12 * ⌊valueOf x / 12⌋) * 2 ^ 149 = emod (sunits x) (12 * oneUnits : ℕ) := by
  rw [floor_valueOf_div_twelve, emod, floorDiv, Int.cast_sub, Int.cast_mul, valueOf, sub_mul,
    div_mul_cancel₀ _ (by positivity), Int.cast_natCast, Nat.cast_mul, oneUnits, Nat.cast_pow, Nat.cast_ofNat, Nat.cast_ofNat]
  ring

theorem abs_sub_twelve_mul_floor_lt (x : ℚ) : |x - 12 * ⌊x / 12⌋| < 12 := by
  have hle := Int.floor_le (x / 12)
  have hlt := Int.lt_floor_add_one (x / 12)
  rw [abs_lt]
  constructor <;> linarith

theorem isRounded_fmod12 {x : F32} (h : isFinite x = true) : IsRounded (fmod12 x) (valueOf x - 12 * ⌊valueOf x / 12⌋) := by
  by_cases hx : 0 ≤ valueOf x ∧ valueOf x < 12
  · have hfloor : ⌊valueOf x / 12⌋ = 0 := by
      rw [Int.floor_eq_zero_iff, Set.mem_Ico]
      constructor <;> linarith
    rw [fmod12_of_mem h hx.1 hx.2, hfloor, Int.cast_zero, mul_zero, sub_zero]
    exact isRounded_of_valueOf_eq h rfl
  · have hnonneg : 0 ≤ emod (sunits x) (12 * oneUnits : ℕ) := (emod_range _ (by decide)).1
    have hbound : (12 : ℚ) < overflowBound := by norm_num [overflowBound]
    rw [fmod12_of_not_mem h hx]
    refine isRounded_roundUnits one_pos ?_ ((abs_sub_twelve_mul_floor_lt _).trans hbound)
    rw [Nat.cast_one, mul_one, valueOf_sub_twelve_mul_floor, applySign, if_neg Bool.false_ne_true,
      Int.natAbs_of_nonneg hnonneg]

/-- Settles O54: in `[0, 12)` the floor is 0; elsewhere `fmod12` rounds the exact remainder by `roundUnits`. -/
theorem fmod12IsTheRoundedRemainder : Obligations.Fmod12IsTheRoundedRemainder :=
  fun _ h => ⟨fmod12_of_mem h, isRounded_fmod12 h⟩

end Sys2Proof.Machine
end

section
/-! PROOFS. The draws of the quantizer and the counter width (R18, R23, R122): what the phases of a TICK keep. -/

namespace Sys2Proof.Machine

variable {w : Nat}

/-! ## The phases in which draws differ -/

/-- The states are the same but for the quantized values. -/
def SameButQ (s s' : State.At w) : Prop := s' = { s with loc := { s.loc with q := s'.loc.q } }

theorem SameButQ.refl (s : State.At w) : SameButQ s s := rfl

/-- A quantizer draws in one configuration exactly when it draws in the other, and writes its own lane only. -/
theorem quantizeTap_sameButQ {c : Config w} {draw' : Nat → F32} {k : Stage} {s s' t t' : State.At w} (h : SameButQ s s')
    (ht : quantizeTap c k s = .next t) (ht' : quantizeTap { c with draw := draw' } k s' = .next t') : SameButQ t t' := by
  rw [SameButQ] at h
  generalize s'.loc.q = q at h
  subst h
  rw [quantizeTap_eq, quantizeStage_eq] at ht ht'
  have hq : quantize { c with draw := draw' } = quantize c := rfl
  have hr : resolve { c with draw := draw' } = resolve c := rfl
  rw [hq, hr] at ht'
  cases hv : quantize c s.params (resolve c (sext s.params.scale)) (s.loc.tap.get k) with
  | some v =>
    simp only [hv, Host.Outcome.next.injEq] at ht ht'
    subst ht ht'
    rfl
  | none =>
    simp only [hv, Host.Outcome.next.injEq] at ht ht'
    subst ht ht'
    rfl

theorem quantizeTaps_sameButQ {c : Config w} {draw' : Nat → F32} {s s' t t' : State.At w} (h : SameButQ s s')
    (ht : quantizeTaps c s = .next t) (ht' : quantizeTaps { c with draw := draw' } s' = .next t') : SameButQ t t' := by
  simp only [quantizeTaps, andThen_eq_next] at ht ht'
  obtain ⟨s3, ⟨s2, ⟨s1, h1, h2⟩, h3⟩, h4⟩ := ht
  obtain ⟨s3', ⟨s2', ⟨s1', h1', h2'⟩, h3'⟩, h4'⟩ := ht'
  exact quantizeTap_sameButQ (quantizeTap_sameButQ (quantizeTap_sameButQ (quantizeTap_sameButQ h h1 h1') h2 h2') h3 h3') h4 h4'

/-- The CV source draws only for a NaN product. -/
theorem srcCv_draw (c : Config w) (draw' : Nat → F32) {s : State.At w}
    (h : isNaN (fmul s.loc.cv (c.gainMap s.params.gain)) = false) : srcCv { c with draw := draw' } s = srcCv c s := by
  simp [srcCv, h]

/-- SEQ.SCALE draws only for an illegal modulus or a negative table value. -/
theorem seqScale_draw (c : Config w) (draw' : Nat → F32) {s : State.At w} (hm : 1 ≤ sext s.params.seqMod)
    (ht : 0 ≤ s.loc.tv) : seqScale { c with draw := draw' } s = seqScale c s := by
  rw [seqScale_of_legal c hm ht, seqScale_of_legal _ hm ht]

/-- SEQ.SCALE after a read draws only for an illegal modulus or a negative table entry. -/
theorem seqRead_seqScale_draw (c : Config w) (draw' : Nat → F32) {s : State.At w} (hm : 1 ≤ sext s.params.seqMod)
    (hrom : ∀ table a, 0 ≤ c.seqRom table a) :
    andThen (seqRead c s) (seqScale { c with draw := draw' }) = andThen (seqRead c s) (seqScale c) := by
  rw [seqRead, andThen_next, andThen_next]
  exact seqScale_draw c draw' hm (hrom (seqTable s.params) (seqAddress s))

/-- The sequence source does not see the draws, in either order of advance and read (R153). -/
theorem srcSeq_draw (c : Config w) (draw' : Nat → F32) {s : State.At w} (hm : 1 ≤ sext s.params.seqMod)
    (hrom : ∀ table a, 0 ≤ c.seqRom table a) : srcSeq { c with draw := draw' } s = srcSeq c s := by
  have hadvance : seqAdvance { c with draw := draw' } = seqAdvance c := rfl
  have hread : seqRead { c with draw := draw' } = seqRead c := rfl
  have hstart : (if inWindow s then s else seqReset s).params = s.params := by split <;> rfl
  simp only [srcSeq, hadvance, hread]
  generalize (if inWindow s then s else seqReset s) = s0 at *
  rw [← hstart] at hm
  split
  · obtain ⟨cur, dir, h⟩ := seqAdvance_eq c s0
    rw [h, andThen_next]
    exact seqRead_seqScale_draw c draw' hm hrom
  · rw [seqRead_seqScale_draw c draw' hm hrom]

/-- Phase 2 does not see the draws when its raw sample is no free value. -/
theorem source_draw (c : Config w) (draw' : Nat → F32) {s : State.At w}
    (hseq : sext s.params.src = 2 → 1 ≤ sext s.params.seqMod ∧ ∀ table a, 0 ≤ c.seqRom table a)
    (hcv : sext s.params.src ≠ 1 → sext s.params.src ≠ 2 → isNaN (fmul s.loc.cv (c.gainMap s.params.gain)) = false) :
    source { c with draw := draw' } s = source c s := by
  unfold source
  split
  · rfl
  · next h1 =>
    split
    · next h2 => exact srcSeq_draw c draw' (hseq h2).1 (hseq h2).2
    · next h2 => exact srcCv_draw c draw' (hcv h1 h2)

/-- Settles O57: up to phase 4 the runs agree, in phase 5 they differ in the quantized values only, and OUT copies those. -/
theorem quantizerDrawsReachOnlyTheOutputs : Obligations.QuantizerDrawsReachOnlyTheOutputs := by
  intro w c draw' s t t' cv clk hseq hcv ht ht'
  have hsource := source_draw c draw' (s := detectEdge (beginTick cv clk s)) hseq hcv
  rw [tick, hsource] at ht'
  rw [tick] at ht
  obtain ⟨s5, h5, ⟨⟩⟩ := andThen_eq_next.1 ht
  obtain ⟨s5', h5', ⟨⟩⟩ := andThen_eq_next.1 ht'
  obtain ⟨s4, h4, h5⟩ := andThen_eq_next.1 h5
  rw [h4, andThen_next] at h5'
  have hq : SameButQ s5 s5' := quantizeTaps_sameButQ (SameButQ.refl s4) h5 h5'
  rw [hq]
  rfl

/-! ## The counter -/

/-- The phase always answers a next state, with the counter as it was. -/
def KeepsTime (f : State.At w → Result w) : Prop := ∀ s, ∃ t, f s = .next t ∧ t.t = s.t

theorem KeepsTime.andThen {f g : State.At w → Result w} (hf : KeepsTime f) (hg : KeepsTime g) :
    KeepsTime fun s => Machine.andThen (f s) g := by
  intro s
  obtain ⟨s1, h1, ht1⟩ := hf s
  obtain ⟨s2, h2, ht2⟩ := hg s1
  exact ⟨s2, by simpa only [h1, andThen_next] using h2, ht2.trans ht1⟩

theorem writeSample_keepsTime : KeepsTime (writeSample (w := w)) := fun s =>
  ⟨_, writeSample_eq s, by split <;> rfl⟩

theorem readTap_keepsTime (k : Stage) : KeepsTime (readTap (w := w) k) := fun s => ⟨_, readTap_eq k s, rfl⟩

theorem readTaps_keepsTime : KeepsTime (readTaps (w := w)) :=
  (((readTap_keepsTime .k1).andThen (readTap_keepsTime .k2)).andThen (readTap_keepsTime .k3)).andThen (readTap_keepsTime .k4)

theorem quantizeTap_keepsTime (c : Config w) (k : Stage) : KeepsTime (quantizeTap c k) := fun s =>
  ⟨_, by rw [quantizeTap_eq, quantizeStage_eq], by split <;> rfl⟩

theorem quantizeTaps_keepsTime (c : Config w) : KeepsTime (quantizeTaps c) :=
  (((quantizeTap_keepsTime c .k1).andThen (quantizeTap_keepsTime c .k2)).andThen (quantizeTap_keepsTime c .k3)).andThen
    (quantizeTap_keepsTime c .k4)

theorem endTick_keepsTime : KeepsTime fun s : State.At w => .next (endTick (driveOutputs s)) := fun _ => ⟨_, rfl, rfl⟩

/-- Phase 2 always answers a next state; the counter is advanced by SRC.BB alone. -/
theorem source_time (c : Config w) (s : State.At w) :
    ∃ t, source c s = .next t ∧ t.t = if sext s.params.src = 1 then (advanceTime s).t else s.t := by
  unfold source
  split
  · obtain ⟨raw, h⟩ := srcBb_eq c s
    exact ⟨_, h, rfl⟩
  · split
    · obtain ⟨cur, dir, tv, raw, n, h⟩ := srcSeq_eq c s
      exact ⟨_, h, rfl⟩
    · obtain ⟨raw, n, h⟩ := srcCv_eq c s
      exact ⟨_, h, rfl⟩

/-- A TICK always answers a next state, and only its source phase reaches the counter. -/
theorem tick_time (c : Config w) (cv clk : F32) (s : State.At w) :
    ∃ t, tick c cv clk s = .next t ∧ t.t = if sext s.params.src = 1 then (advanceTime s).t else s.t := by
  obtain ⟨s1, h1, ht1⟩ := source_time c (detectEdge (beginTick cv clk s))
  obtain ⟨t, h, ht⟩ :=
    ((writeSample_keepsTime.andThen readTaps_keepsTime).andThen (quantizeTaps_keepsTime c)).andThen endTick_keepsTime s1
  exact ⟨t, by rw [tick, h1]; exact h, ht.trans ht1⟩

/-- Equation 0 on a number: it reads bits 15:0 of the counter only (R122). -/
theorem hope_toNat (hw : 16 ≤ w) (t : BitVec w) :
    (hope t).toNat = (t.toNat % 2 ^ 16 * (t.toNat % 2 ^ 16 / 2 ^ 8)) % 2 ^ 8 := by
  have hmod : (hope t).toNat = t.toNat * (t.toNat / 2 ^ 8) % 2 ^ w % 2 ^ 8 := by
    have hmask : 0xFF % 2 ^ w = 2 ^ 8 - 1 :=
      Nat.mod_eq_of_lt (lt_of_lt_of_le (by norm_num) (Nat.pow_le_pow_right (by norm_num) hw))
    rw [hope, BitVec.toNat_setWidth, BitVec.toNat_and, BitVec.toNat_mul, BitVec.toNat_ushiftRight, Nat.shiftRight_eq_div_pow,
      BitVec.toNat_ofNat, hmask, Nat.and_two_pow_sub_one_eq_mod, Nat.mod_mod]
  have hdvd : 2 ^ 8 ∣ 2 ^ w := Nat.pow_dvd_pow 2 (by omega)
  rw [hmod, Nat.mod_mod_of_dvd _ hdvd]
  refine Nat.ModEq.mul ?_ ?_
  · exact (Nat.mod_mod_of_dvd _ (by norm_num)).symm
  · show t.toNat / 2 ^ 8 % 2 ^ 8 = t.toNat % 2 ^ 16 / 2 ^ 8 % 2 ^ 8
    omega

/-- Settles O58: `tick_time` gives the counter at every width, `hope_toNat` the raw sample of equation 0. -/
theorem counterWidthIsAParameter : Obligations.CounterWidthIsAParameter := by
  refine ⟨fun w c s cv clk => ?_, fun w w' c c' s s' h => ⟨_, _, rfl, rfl, ?_⟩⟩
  · obtain ⟨t, ht, htime⟩ := tick_time c cv clk s
    refine ⟨t, ht, ?_⟩
    rw [htime, apply_ite BitVec.toNat, advanceTime_toNat]
    rfl
  · have hhope : hope s.t = hope s'.t := BitVec.eq_of_toNat_eq (by rw [hope_toNat c.wide, hope_toNat c'.wide, h])
    exact congrArg byteSample hhope

end Sys2Proof.Machine
end

section
/-! PROOFS. What each instruction may change (R20 to R30, R189): the phases of a TICK, then every instruction. -/

namespace Sys2Proof.Machine

variable {w : Nat}

/-! ## Phases 4 and 5: locals only -/

/-- The phase always answers a next state that differs in the locals and the count of drawn values at most. -/
def LocalsOnly (f : State.At w → Result w) : Prop := ∀ s, ∃ loc n, f s = .next { s with loc := loc, draws := n }

theorem LocalsOnly.andThen {f g : State.At w → Result w} (hf : LocalsOnly f) (hg : LocalsOnly g) :
    LocalsOnly fun s => Machine.andThen (f s) g := by
  intro s
  obtain ⟨loc, n, hfs⟩ := hf s
  obtain ⟨loc', n', hgs⟩ := hg { s with loc := loc, draws := n }
  exact ⟨loc', n', by simp only [hfs, andThen_next, hgs]⟩

theorem readTap_localsOnly (k : Stage) : LocalsOnly (readTap (w := w) k) := fun s => ⟨_, _, readTap_eq k s⟩

theorem readTaps_localsOnly : LocalsOnly (readTaps (w := w)) :=
  (((readTap_localsOnly .k1).andThen (readTap_localsOnly .k2)).andThen (readTap_localsOnly .k3)).andThen
    (readTap_localsOnly .k4)

theorem quantizeStage_localsOnly (c : Config w) (S : List F32) (k : Stage) : LocalsOnly (quantizeStage c S k) := by
  intro s
  rw [quantizeStage_eq]
  cases quantize c s.params S (s.loc.tap.get k) with
  | some q => exact ⟨_, _, rfl⟩
  | none => exact ⟨_, _, rfl⟩

theorem quantizeTap_localsOnly (c : Config w) (k : Stage) : LocalsOnly (quantizeTap c k) := fun s => by
  rw [quantizeTap_eq]
  exact quantizeStage_localsOnly c _ k s

theorem quantizeTaps_localsOnly (c : Config w) : LocalsOnly (quantizeTaps c) :=
  (((quantizeTap_localsOnly c .k1).andThen (quantizeTap_localsOnly c .k2)).andThen (quantizeTap_localsOnly c .k3)).andThen
    (quantizeTap_localsOnly c .k4)

theorem seqScale_localsOnly (c : Config w) : LocalsOnly (seqScale c) := by
  intro s
  obtain ⟨raw, h⟩ | h := seqScale_eq c s
  · exact ⟨_, _, h⟩
  · exact ⟨_, _, h⟩

/-! ## Phase 2: the counter, the stepper and locals only -/

/-- Phase 2 always answers a next state, in which buffer, write cursor, clock memory, parameters and outputs are kept. -/
theorem source_eq (c : Config w) (s : State.At w) :
    ∃ t cur dir loc n, source c s = .next { s with t := t, cur := cur, dir := dir, loc := loc, draws := n } := by
  unfold source
  split
  · obtain ⟨raw, h⟩ := srcBb_eq c s
    exact ⟨_, _, _, _, _, h⟩
  · split
    · obtain ⟨cur, dir, tv, raw, n, h⟩ := srcSeq_eq c s
      exact ⟨_, _, _, _, _, h⟩
    · obtain ⟨raw, n, h⟩ := srcCv_eq c s
      exact ⟨_, _, _, _, _, h⟩

/-! ## Phase 3: the buffer and the write cursor only -/

/-- The state ASR.WR answers (`writeSample_written`). -/
def written (s : State.At w) : State.At w :=
  if s.loc.edge && !holdEngaged s.params then
    setCursor { s with buf := s.buf.write s.wc.toNat s.loc.raw } (emod (cursor s + 1) (activeLen s.params))
  else s

theorem writeSample_written (s : State.At w) : writeSample s = .next (written s) := writeSample_eq s

theorem written_eq (s : State.At w) : written s = { s with buf := (written s).buf, wc := (written s).wc } := by
  unfold written
  split <;> rfl

@[simp] theorem written_params (s : State.At w) : (written s).params = s.params := by rw [written_eq]

@[simp] theorem written_inbox (s : State.At w) : (written s).inbox = s.inbox := by rw [written_eq]

@[simp] theorem written_cur (s : State.At w) : (written s).cur = s.cur := by rw [written_eq]

theorem written_read_of_ne {s : State.At w} (h : s.buf.wf = true) {a : Nat} (ha : a ≠ s.wc.toNat) :
    (written s).buf.read a = s.buf.read a := by
  unfold written
  split
  · rw [setCursor_buf, Memory.read_write h, if_neg ha]
  · rfl

theorem written_buf_wf {s : State.At w} (h : s.buf.wf = true) : (written s).buf.wf = true := by
  unfold written
  split
  · exact Memory.write_wf h s.wc.isLt _
  · exact h

/-- The window is kept: a moved cursor is a remainder modulo the active length. -/
theorem cursor_written_lt {s : State.At w} (h : cursor s < activeLen s.params) :
    cursor (written s) < activeLen s.params := by
  have hlen := activeLen_range s.params
  have hmod := emod_range (cursor s + 1) (b := activeLen s.params) (by omega)
  unfold written
  split
  · rw [cursor_setCursor _ hmod.1 (by omega)]
    exact hmod.2
  · exact h

/-! ## The whole TICK -/

/-- A TICK always answers a next state: that of phases 1 to 3, with new outputs and no locals left. -/
theorem tick_eq (c : Config w) (cv clk : F32) (s : State.At w) :
    ∃ s1 out n, source c (detectEdge (beginTick cv clk s)) = .next s1 ∧
      tick c cv clk s = .next { written s1 with out := out, loc := TickLocals.idle, draws := n } := by
  obtain ⟨_, _, _, _, _, hsource⟩ := source_eq c (detectEdge (beginTick cv clk s))
  obtain ⟨loc, n, hlate⟩ := (readTaps_localsOnly.andThen (quantizeTaps_localsOnly c)) (written _)
  refine ⟨_, loc.q, n, hsource, ?_⟩
  simp only [tick, hsource, andThen_next, writeSample_written]
  exact congrArg (andThen · _) hlate

/-- What a TICK can do: phase 3 acts on a state whose buffer, write cursor, parameters and waiting commands are the old ones. -/
theorem tick_cases {c : Config w} {cv clk : F32} {s t : State.At w} (h : tick c cv clk s = .next t) :
    ∃ s1, source c (detectEdge (beginTick cv clk s)) = .next s1 ∧
      s1.buf = s.buf ∧ s1.wc = s.wc ∧ s1.params = s.params ∧ s1.inbox = s.inbox ∧
      t = { written s1 with out := t.out, loc := TickLocals.idle, draws := t.draws } := by
  obtain ⟨s1, out, n, hsource, htick⟩ := tick_eq c cv clk s
  obtain ⟨_, _, _, _, _, hkept⟩ := source_eq c (detectEdge (beginTick cv clk s))
  obtain rfl := Host.Outcome.next.inj (hkept.symm.trans hsource)
  obtain rfl := Host.Outcome.next.inj (htick.symm.trans h)
  exact ⟨_, hsource, rfl, rfl, rfl, rfl, rfl⟩

/-! ## Every instruction -/

/-- What an instruction may change, by its kind: the registers it writes and the model's own locals and draws (R21 to R30). -/
inductive Effect (s : State) : Instr → State → Prop
  | locals (i : Instr) (loc : TickLocals) (n : Nat) : Effect s i { s with loc := loc, draws := n }
  | loadp (p : Params) : Effect s (.loadp p) (loadp p s)
  | rst : Effect s .rst (rst s)
  | tick (cv clk : F32) (t : State) (hparams : t.params = s.params) (hinbox : t.inbox = s.inbox) : Effect s (.tick cv clk) t
  | source {i : Instr} (hi : i = .srcCv ∨ i = .srcSeq) (cur : BitVec 32) (dir : Bool) (loc : TickLocals) (n : Nat) :
      Effect s i { s with cur := cur, dir := dir, loc := loc, draws := n }
  | srcBb (t : Time) (loc : TickLocals) : Effect s .srcBb { seqReset s with t := t, loc := loc }
  | stepper {i : Instr} (hi : i = .seqReset ∨ i = .seqLoop ∨ i = .seqPend) (cur : BitVec 32) (dir : Bool) :
      Effect s i { s with cur := cur, dir := dir }
  | edge : Effect s .edge (detectEdge s)
  | asrWr : Effect s .asrWr (written s)
  | out : Effect s .out (driveOutputs s)
  | asrNorm : Effect s .asrNorm (normalizeCursor s)

theorem LocalsOnly.effect {f : State → Result} (hf : LocalsOnly f) (i : Instr) (s : State) :
    ∃ t, f s = .next t ∧ Effect s i t := by
  obtain ⟨loc, n, h⟩ := hf s
  exact ⟨_, h, .locals i loc n⟩

theorem tick_effect (cv clk : F32) (s : State) : ∃ t, exec (.tick cv clk) s = .next t ∧ Effect s (.tick cv clk) t := by
  obtain ⟨s1, out, n, _, htick⟩ := tick_eq device cv clk s
  obtain ⟨s1, _, _, _, hparams, hinbox, ht⟩ := tick_cases htick
  refine ⟨_, htick, ?_⟩
  rw [ht]
  exact .tick cv clk _ ((written_params s1).trans hparams) ((written_inbox s1).trans hinbox)

/-- Every instruction always answers a next state, and changes what its kind may change only. -/
theorem exec_effect (i : Instr) (s : State) : ∃ t, exec i s = .next t ∧ Effect s i t := by
  cases i with
  | idle => exact ⟨_, rfl, .locals _ s.loc s.draws⟩
  | loadp p => exact ⟨_, rfl, .loadp p⟩
  | tick cv clk => exact tick_effect cv clk s
  | rst => exact ⟨_, rfl, .rst⟩
  | srcCv =>
    obtain ⟨raw, n, h⟩ := srcCv_eq device s
    exact ⟨_, h, .source (.inl rfl) _ _ _ n⟩
  | srcBb =>
    obtain ⟨raw, h⟩ := srcBb_eq device s
    exact ⟨_, h, .srcBb _ _⟩
  | srcSeq =>
    obtain ⟨cur, dir, tv, raw, n, h⟩ := srcSeq_eq device s
    exact ⟨_, h, .source (.inr rfl) cur dir _ n⟩
  | bbEq0 | bbEq1 | bbEq2 | bbEq3 | bbEq4 | bbEq5 | bbEq6 | bbEq7 | bbEq8 | bbEq9 | bbEq10 | bbEq11 | bbEq12 | bbEq13
  | bbEq14 | bbEq15 | bbOor | seqRead => exact ⟨_, rfl, .locals _ _ s.draws⟩
  | seqReset => exact ⟨_, rfl, .stepper (.inl rfl) _ _⟩
  | seqLoop => exact ⟨_, rfl, .stepper (.inr (.inl rfl)) _ _⟩
  | seqPend => exact ⟨_, rfl, .stepper (.inr (.inr rfl)) _ _⟩
  | seqScale => exact (seqScale_localsOnly device).effect _ s
  | qntStd k => exact (quantizeStage_localsOnly device _ k).effect _ s
  | qntExo k => exact (quantizeStage_localsOnly device _ k).effect _ s
  | qntEmpty k => exact (quantizeStage_localsOnly device _ k).effect _ s
  | edge => exact ⟨_, rfl, .edge⟩
  | asrWr => exact ⟨_, writeSample_written s, .asrWr⟩
  | asrTap1 => exact (readTap_localsOnly .k1).effect _ s
  | asrTap2 => exact (readTap_localsOnly .k2).effect _ s
  | asrTap3 => exact (readTap_localsOnly .k3).effect _ s
  | asrTap4 => exact (readTap_localsOnly .k4).effect _ s
  | out => exact ⟨_, rfl, .out⟩
  | asrNorm => exact ⟨_, rfl, .asrNorm⟩

theorem effect_of_exec {i : Instr} {s t : State} (h : exec i s = .next t) : Effect s i t := by
  obtain ⟨t', h', he⟩ := exec_effect i s
  rwa [Host.Outcome.next.inj (h.symm.trans h')]

end Sys2Proof.Machine
end

section
/-! PROOFS. The invariant of a run (R55, R56), and the registers' writers (R21 to R30). -/

namespace Sys2Proof.Machine

variable {w : Nat}

/-! ## The range of the sequence cursor (R56) -/

/-- The range R56 derives for `CUR`, as `Inv` has it. -/
abbrev CurRange (x : Int) : Prop := -32769 ≤ x ∧ x ≤ 65534

theorem sext_range (p : ParamWord) : -32768 ≤ sext p ∧ sext p ≤ 32767 := by
  have hlo := p.le_toInt
  have hhi := p.toInt_lt
  norm_num at hlo hhi
  exact ⟨hlo, by unfold sext; omega⟩

/-- Either loop wrap stays in the range from a sum of a cursor in the window and a stride. -/
theorem loopWrap_range (c : Config w) {x len : Int} (hx : -32768 ≤ x ∧ x ≤ 65534) (hlen : -32768 ≤ len ∧ len ≤ 32767) :
    CurRange (loopWrap c x len) := by
  unfold loopWrap
  split
  · unfold wrapToZero
    split_ifs <;> constructor <;> omega
  · unfold wrapModulo
    split
    · have hmod := emod_range x (b := len) (by omega)
      constructor <;> omega
    · decide

/-- The pendulum goes down from a cursor above 0 only. -/
theorem pos_of_pendDir {cur len : Int} {dir : Bool} (h : pendDir cur len dir = true) : 0 < cur := by
  by_contra hcur
  rw [pendDir, if_pos (by omega)] at h
  contradiction

/-- One advance from 0 or from the window of a length of 16 bits stays in the range. -/
theorem seqAdvance_range {c : Config w} {s t : State.At w} (h0 : 0 ≤ seqCursor s) (h1 : seqCursor s ≤ 32766)
    (h : seqAdvance c s = .next t) : CurRange (seqCursor t) := by
  have hstride := sext_range s.params.seqStride
  have hlen := sext_range s.params.seqLen
  unfold seqAdvance at h
  split at h
  · obtain rfl := Host.Outcome.next.inj h
    have hrange : CurRange (seqCursor s + sext s.params.seqStride *
        direction (pendDir (seqCursor s) (sext s.params.seqLen) s.dir)) := by
      cases hdir : pendDir (seqCursor s) (sext s.params.seqLen) s.dir with
      | false =>
        simp only [direction, Bool.false_eq_true, if_false]
        constructor <;> omega
      | true =>
        have hpos := pos_of_pendDir hdir
        simp only [direction, if_true]
        constructor <;> omega
    rwa [seqPend, seqCursor_setSeqCursor _ (by omega) (by omega)]
  · obtain rfl := Host.Outcome.next.inj h
    have hrange := loopWrap_range c (x := seqCursor s + sext s.params.seqStride) (by omega) hlen
    rwa [seqCursor_setSeqCursor _ (by omega) (by omega)]

/-- The stepper advances from 0 or from the window, and read and scale leave the cursor. -/
theorem srcSeq_range {s t : State} (h : srcSeq device s = .next t) : CurRange (seqCursor t) := by
  have hstart : 0 ≤ seqCursor (if inWindow s then s else seqReset s) ∧
      seqCursor (if inWindow s then s else seqReset s) ≤ 32766 := by
    have hlen := sext_range s.params.seqLen
    split
    · next hw =>
      simp only [inWindow, decide_eq_true_eq] at hw
      omega
    · exact ⟨(by decide : (0 : Int) ≤ 0), (by decide : (0 : Int) ≤ 32766)⟩
  obtain ⟨s2, h2, h3⟩ := andThen_eq_next.1 h
  obtain ⟨s1, h1, ⟨⟩⟩ := andThen_eq_next.1 h2
  have hrange := seqAdvance_range hstart.1 hstart.2 h1
  obtain ⟨loc, n, hscale⟩ := seqScale_localsOnly device _
  obtain rfl := Host.Outcome.next.inj (hscale.symm.trans h3)
  exact hrange

theorem source_range {s t : State} (h : source device s = .next t) : CurRange (seqCursor t) := by
  unfold source at h
  split at h
  · obtain ⟨raw, hbb⟩ := srcBb_eq device s
    obtain rfl := Host.Outcome.next.inj (hbb.symm.trans h)
    exact (by decide : CurRange 0)
  · split at h
    · exact srcSeq_range h
    · obtain ⟨raw, n, hcv⟩ := srcCv_eq device s
      obtain rfl := Host.Outcome.next.inj (hcv.symm.trans h)
      exact (by decide : CurRange 0)

/-! ## The invariant -/

/-- Settles O5: the reset state is concrete, so each part is computed. -/
theorem resetMeetsTheInvariant : Obligations.ResetMeetsTheInvariant := by
  unfold Obligations.ResetMeetsTheInvariant
  decide

theorem cursor_loadp_lt (p : Params) (s : State.At w) : cursor (loadp p s) < activeLen p := by
  have hlen := activeLen_range p
  have hmod := emod_range (cursor s) (b := activeLen p) (by omega)
  have hcursor : cursor (loadp p s) = emod (cursor s) (activeLen p) :=
    cursor_setCursor _ hmod.1 (hmod.2.trans_le hlen.2)
  exact hcursor.trans_lt hmod.2

theorem loadp_keeps_inv (p : Params) {s : State} (h : Inv s) : Inv (loadp p s) := by
  obtain ⟨-, hbuf, hcur, hloc⟩ := h
  exact ⟨cursor_loadp_lt p s, hbuf, hcur, hloc⟩

theorem rst_inv (s : State) : Inv (rst s) := resetMeetsTheInvariant

/-- Phases 1 and 2 keep the write cursor and the buffer, phase 3 keeps the window and the canonical form. -/
theorem tick_keeps_inv {cv clk : F32} {s t : State} (hinv : Inv s) (h : exec (.tick cv clk) s = .next t) : Inv t := by
  obtain ⟨hcursor, hbuf, -, -⟩ := hinv
  obtain ⟨s1, hsource, hbuf1, hwc1, hparams1, -, ht⟩ := tick_cases h
  have hcursor1 : cursor s1 < activeLen s1.params := by rwa [cursor, hwc1, hparams1]
  have hwindow : cursor (written s1) < activeLen (written s1).params := by
    rw [written_params]
    exact cursor_written_lt hcursor1
  have hrange : CurRange (seqCursor (written s1)) := by
    rw [seqCursor, written_cur]
    exact source_range hsource
  rw [ht]
  exact ⟨hwindow, written_buf_wf (by rwa [hbuf1]), hrange, rfl⟩

theorem exec_decodePort_keeps_inv {p : PortSample} {s t : State} (hinv : Inv s) (h : exec (decodePort p) s = .next t) :
    Inv t := by
  unfold decodePort at h
  split at h
  · obtain rfl := Host.Outcome.next.inj h
    exact hinv
  · obtain rfl := Host.Outcome.next.inj h
    exact loadp_keeps_inv _ hinv
  · exact tick_keeps_inv hinv h
  · obtain rfl := Host.Outcome.next.inj h
    exact rst_inv s

/-- Settles O6: the decoder names one of the four commands, and each of them keeps the invariant. -/
theorem everyStepKeepsTheInvariant : Obligations.EveryStepKeepsTheInvariant := fun s _ hinv h =>
  exec_decodePort_keeps_inv (s := takeCommand s) hinv h

/-- Settles O27: the one write of a TICK is that of ASR.WR, at the cursor that phases 1 and 2 keep. -/
theorem tickWritesNoCellButTheCursors : Obligations.TickWritesNoCellButTheCursors := by
  intro s t cv clk hbuf h
  obtain ⟨s1, -, hbuf1, hwc1, -, -, ht⟩ := tick_cases h
  have hframe : ∀ a, a ≠ s.wc.toNat → t.buf.read a = s.buf.read a := by
    intro a ha
    rw [ht, ← hbuf1]
    exact written_read_of_ne (by rwa [hbuf1]) (by rwa [hwc1])
  refine ⟨hframe, fun hcursor a ha => hframe a ?_⟩
  simp only [cursor] at hcursor
  omega

/-! ## The writers of each register -/

/-- Settles O7, by the kinds of change an instruction may make. -/
theorem onlyItsWritersChangeARegister : Obligations.OnlyItsWritersChangeARegister := by
  intro i s t h
  cases effect_of_exec h with
  | locals | loadp | rst | srcBb | edge | out | asrNorm => simp
  | tick _ _ _ hparams hinbox => simp [hparams, hinbox]
  | source hi => obtain rfl | rfl := hi <;> simp
  | stepper hi => obtain rfl | rfl | rfl := hi <;> simp
  | asrWr =>
    rw [written_eq]
    simp

/-- Settles O8: the TICK clause is O58's, at the machine's width and configuration. -/
theorem timeCounterCountsByteBeatTicks : Obligations.TimeCounterCountsByteBeatTicks := fun s cv clk _ =>
  ⟨counterWidthIsAParameter.1 tWidth device s cv clk, ⟨_, rfl, rfl⟩, ⟨_, rfl, rfl⟩, ⟨_, rfl, rfl⟩⟩

end Sys2Proof.Machine
end

section
/-! PROOFS. No phase of a TICK reads the outputs (R26, R192). -/

namespace Sys2Proof.Machine

variable {w : Nat}

/-- The outputs replaced. -/
def setOut (o : Lanes) (s : State.At w) : State.At w := { s with out := o }

/-- The phase does the same whatever the outputs hold, and leaves them. -/
def IgnoresOut (f : State.At w → Result w) : Prop :=
  ∀ o s, f (setOut o s) = andThen (f s) fun t => .next (setOut o t)

theorem IgnoresOut.andThen {f g : State.At w → Result w} (hf : IgnoresOut f) (hg : IgnoresOut g) :
    IgnoresOut fun s => Machine.andThen (f s) g := by
  intro o s
  simp only [hf o s]
  cases f s with
  | next t => exact hg o t
  | fault _ => rfl
  | refused _ => rfl

theorem IgnoresOut.ite {p : State.At w → Prop} [DecidablePred p] {f g : State.At w → Result w}
    (hp : ∀ o s, p (setOut o s) = p s) (hf : IgnoresOut f) (hg : IgnoresOut g) :
    IgnoresOut fun s => if p s then f s else g s := by
  intro o s
  simp only [hp]
  split
  · exact hf o s
  · exact hg o s

theorem byteBeat_ignoresOut (c : Config w) : IgnoresOut (byteBeat c) := by
  intro o s
  dsimp only [byteBeat, setOut]
  split <;> rfl

theorem advanceTime_ignoresOut : IgnoresOut fun s : State.At w => .next (advanceTime s) := fun _ _ => rfl

theorem srcBb_ignoresOut (c : Config w) : IgnoresOut (srcBb c) := by
  intro o s
  unfold srcBb
  split
  · exact byteBeat_ignoresOut c o (advanceTime (seqReset s))
  · exact ((byteBeat_ignoresOut c).andThen advanceTime_ignoresOut) o (seqReset s)

theorem srcCv_ignoresOut (c : Config w) : IgnoresOut (srcCv c) := by
  intro o s
  dsimp only [srcCv, setOut]
  split <;> rfl

theorem seqAdvance_ignoresOut (c : Config w) : IgnoresOut (seqAdvance c) :=
  IgnoresOut.ite (p := fun s => sext s.params.seqDir = 1) (fun _ _ => rfl) (fun _ _ => rfl) fun _ _ => rfl

theorem seqScale_ignoresOut (c : Config w) : IgnoresOut (seqScale c) := by
  intro o s
  dsimp only [seqScale, setOut]
  split <;> rfl

theorem seqRead_ignoresOut (c : Config w) : IgnoresOut (seqRead c) := fun _ _ => rfl

/-- The reset check before the advance (R142) does not read the outputs either. -/
theorem srcSeq_ignoresOut (c : Config w) : IgnoresOut (srcSeq c) := by
  have hstart : ∀ (o : Lanes) (s : State.At w), (if inWindow (setOut o s) then setOut o s else seqReset (setOut o s)) =
      setOut o (if inWindow s then s else seqReset s) := by
    intro o s
    rw [show inWindow (setOut o s) = inWindow s from rfl]
    split <;> rfl
  intro o s
  simp only [srcSeq, hstart]
  split
  · exact (((seqAdvance_ignoresOut c).andThen (seqRead_ignoresOut c)).andThen (seqScale_ignoresOut c)) o _
  · exact (((seqRead_ignoresOut c).andThen (seqScale_ignoresOut c)).andThen (seqAdvance_ignoresOut c)) o _

theorem source_ignoresOut (c : Config w) : IgnoresOut (source c) :=
  IgnoresOut.ite (p := fun s => sext s.params.src = 1) (fun _ _ => rfl) (srcBb_ignoresOut c) <|
    IgnoresOut.ite (p := fun s => sext s.params.src = 2) (fun _ _ => rfl) (srcSeq_ignoresOut c) (srcCv_ignoresOut c)

theorem written_setOut (o : Lanes) (s : State.At w) : written (setOut o s) = setOut o (written s) := by
  dsimp only [written, setOut]
  split_ifs <;> rfl

theorem writeSample_ignoresOut : IgnoresOut (writeSample (w := w)) := fun o s => by
  rw [writeSample_written, writeSample_written, written_setOut, andThen_next]

theorem readTap_ignoresOut (k : Stage) : IgnoresOut (readTap (w := w) k) := fun o s => by
  rw [readTap_eq, readTap_eq]
  rfl

theorem readTaps_ignoresOut : IgnoresOut (readTaps (w := w)) :=
  (((readTap_ignoresOut .k1).andThen (readTap_ignoresOut .k2)).andThen (readTap_ignoresOut .k3)).andThen
    (readTap_ignoresOut .k4)

theorem quantizeTap_ignoresOut (c : Config w) (k : Stage) : IgnoresOut (quantizeTap c k) := fun o s => by
  rw [quantizeTap_eq, quantizeTap_eq, quantizeStage_eq, quantizeStage_eq]
  dsimp only [setOut]
  split <;> rfl

theorem quantizeTaps_ignoresOut (c : Config w) : IgnoresOut (quantizeTaps c) :=
  (((quantizeTap_ignoresOut c .k1).andThen (quantizeTap_ignoresOut c .k2)).andThen (quantizeTap_ignoresOut c .k3)).andThen
    (quantizeTap_ignoresOut c .k4)

/-- A phase that overwrites the outputs ends a sequence in which they are not read. -/
theorem IgnoresOut.andThen_overwrites {f g : State.At w → Result w} (hf : IgnoresOut f)
    (hg : ∀ o s, g (setOut o s) = g s) (o : Lanes) (s : State.At w) :
    Machine.andThen (f (setOut o s)) g = Machine.andThen (f s) g := by
  rw [hf o s]
  cases f s with
  | next t => exact hg o t
  | fault _ => rfl
  | refused _ => rfl

/-- Settles O56: phases 1 to 5 ignore the outputs, and OUT overwrites them. -/
theorem outputsAreNeverReadBack : Obligations.OutputsAreNeverReadBack := fun s o cv clk =>
  ((((source_ignoresOut device).andThen writeSample_ignoresOut).andThen readTaps_ignoresOut).andThen
    (quantizeTaps_ignoresOut device)).andThen_overwrites (fun _ _ => rfl) o (detectEdge (beginTick cv clk s))

end Sys2Proof.Machine
end

section
/-! PROOFS. The decoder and the encoder agree (R80 to R88, R95). -/

namespace Sys2Proof

/-! ## The LOADP payload (R82) -/

/-- Each register of a snapshot comes from its own 16 bits of the payload. -/
theorem Params.get_ofWord (w : BitVec 304) (n : ParamName) : (Params.ofWord w).get n = paramField w n.index := by
  cases n <;> rfl

/-- The names of the parameter registers, in index order (R84). -/
def paramNames : List ParamName :=
  [.scale, .root, .transpose, .rotation, .bufIndex, .bufLen, .hold, .gain, .src, .bbEq, .bbP0, .bbP1, .bbP2, .seqSel,
    .seqMod, .seqStart, .seqLen, .seqDir, .seqStride]

theorem exists_index_eq {i : Nat} (h : i < 19) : ∃ n : ParamName, n.index = i := by
  have hlisted : ∀ i < 19, ∃ n ∈ paramNames, n.index = i := by decide
  obtain ⟨n, -, hn⟩ := hlisted i h
  exact ⟨n, hn⟩

/-- The nineteen fields cover the payload: bit `j` is bit `j % 16` of field `j / 16`. -/
theorem Params.ofWord_injective : Function.Injective Params.ofWord := by
  intro w w' h
  refine BitVec.eq_of_getLsbD_eq fun j hj => ?_
  obtain ⟨n, hn⟩ := exists_index_eq (i := j / 16) (by omega)
  have hfield : paramField w (j / 16) = paramField w' (j / 16) := by
    rw [← hn, ← Params.get_ofWord, ← Params.get_ofWord, h]
  have hbit := congrArg (·.getLsbD (j % 16)) hfield
  have hlt : j % 16 < 16 := Nat.mod_lt j (by decide)
  simpa only [paramField, BitVec.getLsbD_extractLsb', hlt, decide_true, Bool.true_and, Nat.div_add_mod] using hbit

/-- Appending a field at the low end moves every other field up by one place. -/
theorem extractLsb'_append_succ {n : Nat} (x : BitVec n) (v : ParamWord) (i : Nat) :
    (x ++ v).extractLsb' (16 * (i + 1)) 16 = x.extractLsb' (16 * i) 16 := by
  rw [BitVec.extractLsb'_append_eq_of_le (by omega), Nat.mul_succ, Nat.add_sub_cancel]

/-- Every register stands in the payload at its own 16 bits. -/
theorem Params.ofWord_toWord (p : Params) : Params.ofWord p.toWord = p := by
  simp only [Params.ofWord, Params.toWord, paramField, extractLsb'_append_succ, Nat.mul_zero,
    BitVec.extractLsb'_append_eq_right, BitVec.extractLsb'_eq_self]

theorem Params.toWord_ofWord (w : BitVec 304) : (Params.ofWord w).toWord = w :=
  Params.ofWord_injective (Params.ofWord_toWord (Params.ofWord w))

/-! ## The command port (R80, R81) -/

/-- Whatever the ports carry is one of the four commands. -/
theorem issuable_decodePort (p : PortSample) : (decodePort p).issuable = true := by
  unfold decodePort
  split <;> rfl

theorem decodePort_of_encodePort {i : Instr} {p : PortSample} (h : encodePort i = some p) : decodePort p = i := by
  cases i with
  | idle | tick | rst =>
    obtain rfl := Option.some.inj h
    rfl
  | loadp params =>
    obtain rfl := Option.some.inj h
    exact congrArg Instr.loadp params.ofWord_toWord
  | _ => contradiction

theorem exists_encodePort {i : Instr} (h : i.issuable = true) : ∃ p, encodePort i = some p := by
  cases i with
  | idle | loadp | tick | rst => exact ⟨_, rfl⟩
  | _ => contradiction

/-! ## The selector registers (R85 to R88) -/

/-- The word the table gives a selected row decodes, in the row's own format, to that row. -/
theorem decodeRow_of_selectable {i : Instr} (h : i.selectable = true) :
    ∃ n, encodeWord i = some n ∧ decodeRow i.format i.stage (BitVec.ofNat 16 n).toNat = .ok i := by
  cases i with
  | idle | loadp | tick | rst | edge | seqReset | seqRead | seqScale | asrWr | asrTap1 | asrTap2 | asrTap3 | asrTap4 | out
  | asrNorm => contradiction
  | _ => exact ⟨_, rfl, rfl⟩

/-! ## Both encodings -/

theorem decode_of_encode {i : Instr} (h : i.wellFormed = true) : ∃ e, encode i = some e ∧ decode e = .ok i := by
  unfold encode
  split
  · next hissue =>
    obtain ⟨p, hp⟩ := exists_encodePort hissue
    exact ⟨.port p, by rw [hp]; rfl, congrArg Except.ok (decodePort_of_encodePort hp)⟩
  · next hissue =>
    have hselect : i.selectable = true := by simpa [Instr.wellFormed, hissue] using h
    obtain ⟨n, hn, hdecode⟩ := decodeRow_of_selectable hselect
    exact ⟨.selector i.format i.stage (BitVec.ofNat 16 n), by rw [hn]; rfl, hdecode⟩

/-- A row that runs at a fixed place has neither a command code nor a selector word. -/
theorem encode_of_not_wellFormed {i : Instr} (h : i.wellFormed = false) : encode i = none := by
  cases i with
  | edge | seqReset | seqRead | seqScale | asrWr | asrTap1 | asrTap2 | asrTap3 | asrTap4 | out | asrNorm => rfl
  | _ => contradiction

end Sys2Proof

namespace Sys2Proof.Machine

/-- Settles O3, for the commands by the round trip of the ports, for the selected rows by that of their words. -/
theorem decodeOfEncodeIsTheInstruction : Obligations.DecodeOfEncodeIsTheInstruction :=
  ⟨fun _ => decode_of_encode, fun _ => encode_of_not_wellFormed, Params.toWord_ofWord⟩

/-- Settles O2: fixed words, each decoded by computation. -/
theorem wordsDecodeAsTheTablesSay : Obligations.WordsDecodeAsTheTablesSay := by
  unfold Obligations.WordsDecodeAsTheTablesSay
  decide

end Sys2Proof.Machine
end

section
/-! PROOFS. The whole-machine rules of the command port: one step (R80, R208), LOADP (R181). -/

namespace Sys2Proof.Machine

variable {w : Nat}

theorem step_of_inbox_nil {s : State} (h : s.inbox = []) : step s = exec .idle s := by
  cases s
  obtain rfl := h
  rfl

theorem step_of_inbox_cons {s : State} {p : PortSample} {rest : List PortSample} (h : s.inbox = p :: rest) :
    step s = exec (decodePort p) { s with inbox := rest } := by
  rw [step, nextPorts, takeCommand, h]
  rfl

/-- Settles O1: what the ports of a command decode to is the command itself. -/
theorem stepRunsTheDecodedCommand : Obligations.StepRunsTheDecodedCommand := fun _ =>
  ⟨step_of_inbox_nil, fun p _ h => ⟨issuable_decodePort p, step_of_inbox_cons h⟩,
    fun _ _ _ h hp => by rw [step_of_inbox_cons h, decodePort_of_encodePort hp]⟩

theorem clamp_eq_max_min (x : Int) {lo hi : Int} (h : lo ≤ hi) : clamp x lo hi = max lo (min hi x) := by
  unfold clamp
  split_ifs <;> omega

/-- LOADP leaves the write cursor modulo the new active length (R170). -/
theorem cursor_loadp (p : Params) (s : State.At w) : cursor (loadp p s) = cursor s % activeLen p := by
  have hlen := activeLen_range p
  have hmod := emod_range (cursor s) (b := activeLen p) (by omega)
  rw [← emod_eq]
  exact cursor_setCursor _ hmod.1 (hmod.2.trans_le hlen.2)

/-- Settles O12: the registers are those of the snapshot in the payload, the cursor is the one ASR.NORM leaves. -/
theorem loadpLoadsEveryRegister : Obligations.LoadpLoadsEveryRegister := by
  intro s w cv clk
  refine ⟨loadp (Params.ofWord w) s, rfl, Params.get_ofWord w, ?_, rfl⟩
  have hlen : activeLen (Params.ofWord w) = max 4 (min 64 (w.extractLsb' 80 16).toInt) := clamp_eq_max_min _ (by decide)
  rw [← hlen]
  exact cursor_loadp (Params.ofWord w) s

end Sys2Proof.Machine
end

section
/-! PROOFS. A TICK is the rows its registers select, in phase order (R95, R182). -/

namespace Sys2Proof.Machine

variable {w : Nat}

/-! ## Sequences of rows -/

theorem andThen_assoc (o : Result w) (f g : State.At w → Result w) :
    andThen (andThen o f) g = andThen o fun s => andThen (f s) g := by
  cases o <;> rfl

theorem andThen_next_right (o : Result w) : andThen o .next = o := by
  cases o <;> rfl

theorem inOrder_append (s : State) (rows rows' : List Instr) :
    inOrder s (rows ++ rows') = andThen (inOrder s rows) fun t => inOrder t rows' := by
  induction rows generalizing s with
  | nil => rfl
  | cons i rows ih =>
    rw [List.cons_append, inOrder, inOrder, andThen_assoc]
    exact congrArg (andThen (exec i s)) (funext ih)

/-- From parameters `p` the rows in order are the phase `f`, and they leave the parameters `p`. -/
def RunAs (p : Params) (rows : List Instr) (f : State → Result) : Prop :=
  ∀ s, s.params = p → inOrder s rows = f s ∧ ∀ t, f s = .next t → t.params = p

theorem RunAs.append {p : Params} {rows rows' : List Instr} {f g : State → Result} (hf : RunAs p rows f)
    (hg : RunAs p rows' g) : RunAs p (rows ++ rows') fun s => andThen (f s) g := by
  intro s hs
  obtain ⟨hrows, hkeep⟩ := hf s hs
  have hcong : andThen (f s) (fun t => inOrder t rows') = andThen (f s) g := by
    cases hfs : f s with
    | next t => exact (hg t (hkeep t hfs)).1
    | fault _ => rfl
    | refused _ => rfl
  refine ⟨by rw [inOrder_append, hrows, hcong], fun u hu => ?_⟩
  obtain ⟨t, ht, hgt⟩ := andThen_eq_next.1 hu
  exact (hg t (hkeep t ht)).2 u hgt

/-- A row that is no command keeps the parameters, so it is the phase it answers like. -/
theorem RunAs.single {p : Params} {i : Instr} {f : State → Result} (hi : i.issuable = false)
    (hexec : ∀ s, s.params = p → exec i s = f s) : RunAs p [i] f := by
  intro s hs
  rw [← hexec s hs]
  refine ⟨andThen_next_right _, fun t ht => ?_⟩
  have hloadp : ∀ q, i ≠ .loadp q := by
    rintro q rfl
    contradiction
  have hrst : i ≠ .rst := by
    rintro rfl
    contradiction
  obtain ⟨-, hparams, -⟩ := onlyItsWritersChangeARegister i s t ht
  exact (hparams hloadp hrst).trans hs

/-! ## The selected rows -/

theorem issuable_decodeSrc (v : ParamWord) : (decodeSrc v).issuable = false := by
  unfold decodeSrc
  split_ifs <;> rfl

theorem issuable_decodeScale (k : Stage) (v : ParamWord) : (decodeScale k v).issuable = false := by
  unfold decodeScale
  split_ifs <;> rfl

/-- Phase 2 is the row `P.SRC` selects (R85). -/
theorem exec_decodeSrc (s : State) : exec (decodeSrc s.params.src) s = source device s := by
  unfold decodeSrc source sext
  split_ifs <;> rfl

/-- Phase 5 is, for each stage, the row `P.SCALE` selects (R88). -/
theorem exec_decodeScale (k : Stage) (s : State) : exec (decodeScale k s.params.scale) s = quantizeTap device k s := by
  unfold decodeScale quantizeTap sext
  split_ifs <;> rfl

/-! ## The phases -/

theorem source_runAs (p : Params) : RunAs p [decodeSrc p.src] (source device) :=
  .single (issuable_decodeSrc _) fun s hs => by rw [← hs, exec_decodeSrc]

theorem readTaps_runAs (p : Params) : RunAs p [.asrTap1, .asrTap2, .asrTap3, .asrTap4] readTaps :=
  (((RunAs.single rfl fun _ _ => rfl).append (.single rfl fun _ _ => rfl)).append (.single rfl fun _ _ => rfl)).append
    (.single rfl fun _ _ => rfl)

theorem quantizeTap_runAs (p : Params) (k : Stage) : RunAs p [decodeScale k p.scale] (quantizeTap device k) :=
  .single (issuable_decodeScale k _) fun s hs => by rw [← hs, exec_decodeScale]

theorem quantizeTaps_runAs (p : Params) :
    RunAs p [decodeScale .k1 p.scale, decodeScale .k2 p.scale, decodeScale .k3 p.scale, decodeScale .k4 p.scale]
      (quantizeTaps device) :=
  (((quantizeTap_runAs p .k1).append (quantizeTap_runAs p .k2)).append (quantizeTap_runAs p .k3)).append
    (quantizeTap_runAs p .k4)

/-- The six phases of a TICK (R189), between the take of its samples and the drop of its locals. -/
def phases (s : State) : Result :=
  andThen (andThen (andThen (andThen (andThen (execEdge s) (source device)) writeSample) readTaps) (quantizeTaps device))
    execOut

theorem tickRows_runAs (p : Params) : RunAs p (tickRows p) phases :=
  (((((RunAs.single (i := .edge) rfl fun _ _ => rfl).append (source_runAs p)).append
    (.single (i := .asrWr) rfl fun _ _ => rfl)).append (readTaps_runAs p)).append (quantizeTaps_runAs p)).append
      (.single (i := .out) rfl fun _ _ => rfl)

theorem execTick_eq_phases (cv clk : F32) (s : State) :
    execTick cv clk s = andThen (phases (beginTick cv clk s)) fun t => .next (endTick t) := by
  rw [phases, andThen_assoc]
  rfl

/-- Settles O15: no row of a TICK writes a parameter, so each phase meets the selectors the TICK began with. -/
theorem tickRunsTheSelectedRowsInPhaseOrder : Obligations.TickRunsTheSelectedRowsInPhaseOrder := by
  intro cv clk s
  obtain ⟨hrows, -⟩ := tickRows_runAs s.params (beginTick cv clk s) rfl
  exact (execTick_eq_phases cv clk s).trans (congrArg (andThen · _) hrows.symm)

end Sys2Proof.Machine
end

section
/-! PROOFS. The one write of a TICK and of a PULSE (R97, R161, R164). -/

namespace Sys2Proof.Machine

variable {w : Nat}

/-! ## The edge and the clock memory inside a TICK -/

/-- Phase 2 leaves the condition phase 1 computed and the clock memory. -/
theorem source_keeps_edge {c : Config w} {s t : State.At w} (h : source c s = .next t) :
    t.loc.edge = s.loc.edge ∧ t.prev = s.prev := by
  unfold source at h
  split at h
  · obtain ⟨raw, hbb⟩ := srcBb_eq c s
    obtain rfl := Host.Outcome.next.inj (hbb.symm.trans h)
    exact ⟨rfl, rfl⟩
  · split at h
    · obtain ⟨cur, dir, tv, raw, n, hseq⟩ := srcSeq_eq c s
      obtain rfl := Host.Outcome.next.inj (hseq.symm.trans h)
      exact ⟨rfl, rfl⟩
    · obtain ⟨raw, n, hcv⟩ := srcCv_eq c s
      obtain rfl := Host.Outcome.next.inj (hcv.symm.trans h)
      exact ⟨rfl, rfl⟩

theorem tick_prev {c : Config w} {cv clk : F32} {s t : State.At w} (h : tick c cv clk s = .next t) : t.prev = clk := by
  obtain ⟨s1, hsource, -, -, -, -, ht⟩ := tick_cases h
  obtain ⟨-, hprev⟩ := source_keeps_edge hsource
  rw [ht, written_eq]
  exact hprev

/-! ## With and without a write -/

theorem cursor_written {s : State.At w} (h : (s.loc.edge && !holdEngaged s.params) = true) :
    cursor (written s) = (cursor s + 1) % activeLen s.params := by
  have hlen := activeLen_range s.params
  have hmod := emod_range (cursor s + 1) (b := activeLen s.params) (by omega)
  rw [written, if_pos h, cursor_setCursor _ hmod.1 (by omega), emod_eq]

/-- On a rising edge with hold not engaged a TICK moves the write cursor on by one modulo the active length. -/
theorem cursor_tick_of_edge {c : Config w} {cv clk : F32} {s t : State.At w} (h : tick c cv clk s = .next t)
    (hwrites : (risingEdge s.prev clk && !holdEngaged s.params) = true) :
    cursor t = (cursor s + 1) % activeLen s.params := by
  obtain ⟨s1, hsource, -, hwc, hparams, -, ht⟩ := tick_cases h
  obtain ⟨hedge, -⟩ := source_keeps_edge hsource
  have hcursor : cursor (written s1) = (cursor s1 + 1) % activeLen s1.params :=
    cursor_written (by rw [hedge, hparams]; exact hwrites)
  rw [ht]
  simpa only [cursor, hwc, hparams] using hcursor

/-- Without a rising edge, or under hold, a TICK writes no cell and leaves the write cursor. -/
theorem tick_keeps_buffer {c : Config w} {cv clk : F32} {s t : State.At w} (h : tick c cv clk s = .next t)
    (hidle : (risingEdge s.prev clk && !holdEngaged s.params) = false) : t.buf = s.buf ∧ t.wc = s.wc := by
  obtain ⟨s1, hsource, hbuf, hwc, hparams, -, ht⟩ := tick_cases h
  obtain ⟨hedge, -⟩ := source_keeps_edge hsource
  have hwritten : written s1 = s1 := by
    rw [written, if_neg]
    rw [hedge, hparams]
    exact ne_true_of_eq_false hidle
  rw [ht, hwritten]
  exact ⟨hbuf, hwc⟩

/-! ## PULSE -/

theorem holdEngaged_of_zero {p : Params} (h : p.hold = 0) : holdEngaged p = false := by
  rw [holdEngaged, h]
  rfl

/-- Settles O28: the high clock of a PULSE makes an edge, so its first TICK writes; the low clock makes none. -/
theorem pulseWritesExactlyOnce : Obligations.PulseWritesExactlyOnce := by
  intro s t u cv hbuf hhold hlow h1 h2
  have hrise : (risingEdge s.prev clockHigh && !holdEngaged s.params) = true := by
    have hhigh : flt clockThreshold clockHigh = true := by decide
    have hprev : fle s.prev clockThreshold = true := hlow
    simp [risingEdge, hprev, hhigh, holdEngaged_of_zero hhold]
  have hfall : risingEdge t.prev clockLow = false := by
    rw [tick_prev h1]
    decide
  obtain ⟨hubuf, huwc⟩ := tick_keeps_buffer h2 (by rw [hfall, Bool.false_and])
  constructor
  · rw [cursor, huwc]
    exact cursor_tick_of_edge h1 hrise
  · obtain ⟨hframe, -⟩ := tickWritesNoCellButTheCursors s t cv clockHigh hbuf h1
    rw [hubuf]
    exact hframe

end Sys2Proof.Machine
end

section
/-! PROOFS. The Scale Library (R100, R101), and the quantizer outside its domain (R114). -/

namespace Sys2Proof.Machine

variable {w : Nat}

/-! ## Scale indexes -/

theorem resolve_std (c : Config w) (i : Fin 16) : resolve c (i.val : ℤ) = (c.scaleRom.std i).entries := by
  rw [resolve, if_pos ⟨by omega, by omega⟩, stdEntries_val]

theorem resolve_exo (c : Config w) (j : Fin 117) : resolve c ((j.val : ℤ) + 16) = (c.scaleRom.exo j).entries := by
  rw [resolve, if_neg (by omega), if_pos ⟨by omega, by omega⟩, exoEntries_val]

theorem resolve_outside (c : Config w) {i : ℤ} (h : i < 0 ∨ 132 < i) : resolve c i = [] := by
  rw [resolve, if_neg (by omega), if_neg (by omega)]

/-- Every index of the library is a standard one, or an exotic one at its offset of 16 (R100). -/
theorem scaleIndex_cases {i : ℤ} (h0 : 0 ≤ i) (h1 : i ≤ 132) :
    (∃ k : Fin 16, i = k.val) ∨ ∃ j : Fin 117, i = (j.val : ℤ) + 16 := by
  rcases Int.lt_or_le i 16 with hlt | hge
  · exact .inl ⟨⟨i.toNat, by omega⟩, by simp [h0]⟩
  · exact .inr ⟨⟨(i - 16).toNat, by omega⟩, by simp [hge]⟩

/-- Settles O60: each class of index finds an entry of its table, which carries its constraints; Major stands in one of them. -/
theorem theScaleLibraryMeetsR101 : Obligations.TheScaleLibraryMeetsR101 := by
  refine fun w c => ⟨fun i h0 h1 => ?_, fun i h => resolve_outside c h, ?_⟩
  · obtain ⟨k, rfl⟩ | ⟨j, rfl⟩ := scaleIndex_cases h0 h1
    · rw [resolve_std]
      exact ⟨(c.scaleRom.std k).ok, fun _ => (c.scaleRom.std k).integral⟩
    · rw [resolve_exo]
      exact ⟨(c.scaleRom.exo j).ok, fun h => absurd h (by omega)⟩
  · obtain ⟨k, hk⟩ | ⟨j, hj⟩ := c.scaleRom.hasMajor
    · exact ⟨k.val, by omega, by omega, by rw [resolve_std, hk]⟩
    · exact ⟨(j.val : ℤ) + 16, by omega, by omega, by rw [resolve_exo, hj]⟩

/-! ## One stage -/

/-- In the domain the quantized value is rebuilt from the octave and the selected entry (R113). -/
theorem quantize_of_inDomain (c : Config w) (p : Params) (S : List F32) {v : F32} (h : inDomain (semitones c v) = true) :
    quantize c p S v = some (reconstruct (semitoneCount p (semitones c v) / 12)
      (select p (semitoneCount p (semitones c v) % 12) S none)) := by
  rw [quantize, if_pos h, floorDiv, emod_eq]

theorem quantizeStage_of_inDomain {c : Config w} (S : List F32) {k : Stage} {s : State.At w}
    (h : inDomain (semitones c (s.loc.tap.get k)) = true) :
    quantizeStage c S k s = .next (setQ s k (reconstruct (semitoneCount s.params (semitones c (s.loc.tap.get k)) / 12)
      (select s.params (semitoneCount s.params (semitones c (s.loc.tap.get k)) % 12) S none))) := by
  rw [quantizeStage_eq, quantize_of_inDomain c s.params S h]

theorem quantizeStage_of_not_inDomain {c : Config w} (S : List F32) {k : Stage} {s : State.At w}
    (h : inDomain (semitones c (s.loc.tap.get k)) = false) : quantizeStage c S k s = .next (drawQ c s k) := by
  rw [quantizeStage_eq, quantize, h, if_neg Bool.false_ne_true]

/-! ## Outside the domain -/

/-- The domain of R114, on the number. -/
theorem inDomain_iff (m : F32) : inDomain m = true ↔ isFinite m = true ∧ |valueOf m| ≤ 2 ^ 30 := by
  have hunits : units m ≤ 2 ^ 30 * oneUnits ↔ |valueOf m| ≤ 2 ^ 30 := by
    rw [← mul_le_mul_iff_left₀ (by positivity : (0 : ℚ) < 2 ^ 149), abs_valueOf, oneUnits]
    norm_cast
  rw [inDomain, Bool.and_eq_true, decide_eq_true_eq, hunits]

/-- No product with 12 makes a NaN or an infinity finite. -/
theorem isFinite_fmul_twelve {v : F32} (h : isFinite v = false) : isFinite (fmul v f32Twelve) = false := by
  have hNaN : isFinite quietNaN = false := by decide
  have hinf : ∀ neg, isFinite (withSign neg 0x7F800000) = false := by decide
  have hv : isNaN v = true ∨ isInf v = true := by simpa [h] using class_cases v
  unfold fmul
  rcases hv with hv | hv
  · rw [if_pos (by simp [hv])]
    exact hNaN
  · split
    · exact hNaN
    · rw [if_pos (by simp [hv])]
      split
      · exact hNaN
      · exact hinf _

theorem semitones_of_not_isFinite (c : Config w) {v : F32} (h : isFinite v = false) :
    isFinite (semitones c v) = false := by
  rw [semitones, fround, isFinite_fmul_twelve h, if_neg Bool.false_ne_true, isFinite_fmul_twelve h]

/-- The two ways out of the domain that R114 names. -/
theorem inDomain_semitones_eq_false {c : Config w} {v : F32}
    (h : isFinite v = false ∨ 2 ^ 30 < |valueOf (semitones c v)|) : inDomain (semitones c v) = false := by
  rw [Bool.eq_false_iff, Ne, inDomain_iff]
  rintro ⟨hfin, hle⟩
  rcases h with h | h
  · exact Bool.false_ne_true ((semitones_of_not_isFinite c h).symm.trans hfin)
  · exact hle.not_gt h

/-- Settles O50: outside the domain each of the three rows, over whatever list it searches, draws. -/
theorem quantizerOutsideItsDomainIsAnyValue : Obligations.QuantizerOutsideItsDomainIsAnyValue := by
  intro k s i hi h
  have hdraw := fun S => quantizeStage_of_not_inDomain (c := device) S (inDomain_semitones_eq_false (c := device) h)
  rcases hi with rfl | rfl | rfl
  · exact hdraw (stdEntries device (sext s.params.scale))
  · exact hdraw (exoEntries device (sext s.params.scale))
  · exact hdraw []

end Sys2Proof.Machine
end

section
/-! PROOFS. Samples that stand for integers (R17): `i2f` is exact up to `2^24`, sums of integers round to integers, and the
primitives the quantizer uses compute on them as on integers. -/

namespace Sys2Proof.Machine

/-! ## Fields of a rounded value -/

theorem roundMag_lt (num den : ℕ) : roundMag num den < 2 ^ 31 := by
  have := roundMag_le num den
  omega

@[simp] theorem signBit_roundUnits (neg : Bool) (num den : ℕ) : signBit (roundUnits neg num den) = neg :=
  signBit_withSign neg (roundMag_lt num den)

@[simp] theorem units_roundUnits (neg : Bool) (num den : ℕ) : units (roundUnits neg num den) = magUnits (roundMag num den) := by
  rw [units_eq_magUnits, roundUnits, magBits_withSign neg (roundMag_lt num den)]

theorem isFinite_roundUnits {neg : Bool} {num den : ℕ} :
    isFinite (roundUnits neg num den) = true ↔ roundMag num den < 0x7F800000 := by
  rw [isFinite, roundUnits, magBits_withSign neg (roundMag_lt num den), decide_eq_true_eq]

/-! ## Fractions in other terms -/

theorem nearestEven_mul_right (num : ℕ) {den k : ℕ} (hk : 0 < k) : nearestEven (num * k) (den * k) = nearestEven num den := by
  have hlt : den * k < 2 * (num % den * k) ↔ den < 2 * (num % den) := by
    rw [← mul_assoc, Nat.mul_lt_mul_right hk]
  have heq : 2 * (num % den * k) = den * k ↔ 2 * (num % den) = den := by
    rw [← mul_assoc, Nat.mul_left_inj hk.ne']
  simp only [nearestEven, Nat.mul_div_mul_right _ _ hk, Nat.mul_mod_mul_right, hlt, heq]

/-- The rounded magnitude depends on the quotient only. -/
theorem roundMag_mul_right (num den : ℕ) {k : ℕ} (hk : 0 < k) : roundMag (num * k) (den * k) = roundMag num den := by
  simp only [roundMag, Nat.mul_div_mul_right _ _ hk, mul_right_comm den k, nearestEven_mul_right num hk]

/-! ## Finite rounded magnitudes -/

/-- A finite rounded magnitude is the rounded significand times its quantum. -/
theorem magUnits_roundMag {num den : ℕ} (hd : 0 < den) (hfin : roundMag num den < 0x7F800000) :
    magUnits (roundMag num den) = nearestEven num (den * 2 ^ quantumExp num den) * 2 ^ quantumExp num den := by
  have hlt : quantumExp num den * 2 ^ 23 + nearestEven num (den * 2 ^ quantumExp num den) < 0x7F800000 := by
    by_contra hge
    exact hfin.ne (if_pos (not_lt.1 hge))
  rw [roundMag_of_lt hlt]
  exact magUnits_assemble (significand_bounds num hd).1 (significand_bounds num hd).2

/-- Nothing is rounded off what the quantum divides. -/
theorem magUnits_roundMag_of_dvd {num : ℕ} (hfin : roundMag num 1 < 0x7F800000) (h : 2 ^ quantumExp num 1 ∣ num) :
    magUnits (roundMag num 1) = num := by
  obtain ⟨q, hq⟩ := h
  have hround := nearestEven_mul q (2 ^ quantumExp num 1) (by positivity)
  rw [mul_comm q, ← hq] at hround
  rw [magUnits_roundMag one_pos hfin, one_mul, hround, mul_comm, ← hq]

/-- Rounding keeps every power of two that divides the exact magnitude. -/
theorem two_pow_dvd_magUnits {num k : ℕ} (hfin : roundMag num 1 < 0x7F800000) (h : 2 ^ k ∣ num) :
    2 ^ k ∣ magUnits (roundMag num 1) := by
  rcases Nat.le_total k (quantumExp num 1) with hk | hk
  · rw [magUnits_roundMag one_pos hfin]
    exact (pow_dvd_pow 2 hk).mul_left _
  · rwa [magUnits_roundMag_of_dvd hfin ((pow_dvd_pow 2 hk).trans h)]

/-- A whole number of quanta does not round to zero. -/
theorem magUnits_roundMag_ne_zero {num : ℕ} (hfin : roundMag num 1 < 0x7F800000) (h : num ≠ 0) :
    magUnits (roundMag num 1) ≠ 0 := by
  rcases (significand_bounds num one_pos).1 with he | hn
  · rwa [magUnits_roundMag_of_dvd hfin (by simp [he])]
  · rw [magUnits_roundMag one_pos hfin]
    exact Nat.mul_ne_zero (by omega) (by positivity)

/-- Below `2^24` a multiple of `2^k` needs no quantum above `2^k`. -/
theorem quantumExp_le_of_lt {n : ℕ} (h : n < 2 ^ 24) (k : ℕ) : quantumExp (n * 2 ^ k) 1 ≤ k := by
  rcases Nat.eq_zero_or_pos n with rfl | hpos
  · simp [quantumExp]
  · have hlog : (n * 2 ^ k).log2 < 24 + k := by
      rw [Nat.log2_lt (by positivity), pow_add]
      exact Nat.mul_lt_mul_of_pos_right h (by positivity)
    rw [quantumExp, Nat.div_one]
    omega

/-! ## Integers with an exact sample -/

/-- The integer has a sample that stands for it. -/
def IntExact (n : ℤ) : Prop := isFinite (i2f n) = true ∧ sunits (i2f n) = n * oneUnits

@[simp] theorem signBit_i2f (n : ℤ) : signBit (i2f n) = decide (n < 0) := signBit_roundUnits _ _ _

theorem units_i2f (n : ℤ) : units (i2f n) = magUnits (roundMag (n.natAbs * oneUnits) 1) := units_roundUnits _ _ _

theorem isFinite_i2f_iff (n : ℤ) : isFinite (i2f n) = true ↔ roundMag (n.natAbs * oneUnits) 1 < 0x7F800000 :=
  isFinite_roundUnits

theorem isFinite_i2f {n : ℤ} (h : |(n : ℚ)| < overflowBound) : isFinite (i2f n) = true := (isRounded_i2f h).1

theorem units_of_sunits {x : F32} {n : ℤ} (h : sunits x = n * oneUnits) : units x = n.natAbs * oneUnits := by
  rw [← natAbs_applySign (signBit x) (units x), ← sunits_eq_applySign, h, Int.natAbs_mul, Int.natAbs_natCast]

theorem applySign_mul_nat (neg : Bool) (m k : ℕ) : applySign neg (m * k) = applySign neg m * k := by
  cases neg <;> simp [applySign]

/-- A sample that stands for an integer, and is not -0.0, is the integer's own. -/
theorem eq_i2f {x : F32} {n : ℤ} (hfin : isFinite x = true) (hval : sunits x = n * oneUnits)
    (hsign : signBit x = decide (n < 0)) : x = i2f n ∧ IntExact n := by
  have hx : x = i2f n := by
    rw [i2f, ← units_of_sunits hval, ← hsign, roundUnits_units hfin]
  exact ⟨hx, by rwa [← hx], by rwa [← hx]⟩

/-- Every integer of at most 24 bits is exact. -/
theorem intExact_of_lt {n : ℤ} (h : |n| < 2 ^ 24) : IntExact n := by
  have hbound : |(n : ℚ)| < overflowBound := by
    have : |(n : ℚ)| < 2 ^ 24 := by exact_mod_cast h
    exact this.trans (by norm_num [overflowBound])
  have hfin := isFinite_i2f hbound
  have hunits : units (i2f n) = n.natAbs * oneUnits := by
    rw [units_i2f, magUnits_roundMag_of_dvd ((isFinite_i2f_iff n).1 hfin)]
    have hlt : n.natAbs < 2 ^ 24 := by
      rw [Int.abs_eq_natAbs] at h
      exact_mod_cast h
    exact (pow_dvd_pow 2 (quantumExp_le_of_lt hlt 149)).trans (Dvd.intro_left _ rfl)
  refine ⟨hfin, ?_⟩
  rw [sunits_eq_applySign, signBit_i2f, hunits, applySign_mul_nat, applySign_natAbs]

/-- An integer rounds to an integer. -/
theorem exists_i2f_eq {n : ℤ} (h : isFinite (i2f n) = true) : ∃ m, i2f n = i2f m ∧ IntExact m := by
  have hfin := (isFinite_i2f_iff n).1 h
  obtain ⟨k, hk⟩ : oneUnits ∣ units (i2f n) := by
    rw [units_i2f]
    exact two_pow_dvd_magUnits hfin (Dvd.intro_left _ rfl)
  have hneg : n < 0 → k ≠ 0 := by
    rintro hn rfl
    refine magUnits_roundMag_ne_zero hfin (Nat.mul_ne_zero (by omega) (by decide)) ?_
    rw [← units_i2f, hk, Nat.mul_zero]
  refine ⟨applySign (decide (n < 0)) k, eq_i2f h ?_ ?_⟩
  · rw [sunits_eq_applySign, signBit_i2f, hk, mul_comm, applySign_mul_nat]
  · rw [signBit_i2f, decide_eq_decide]
    by_cases hn : n < 0
    · have := hneg hn
      simp [applySign, hn]
      omega
    · simp [applySign, hn]

end Sys2Proof.Machine
end

section
/-! PROOFS. The primitives on samples that stand for integers (R17, R106 to R111). -/

namespace Sys2Proof.Machine

/-! ## Values -/

theorem valueOf_of_sunits {x : F32} {n : ℤ} (h : sunits x = n * oneUnits) : valueOf x = n := by
  rw [valueOf, h, oneUnits]
  push_cast
  exact mul_div_cancel_right₀ _ (by positivity)

theorem sunits_of_valueOf {x : F32} {n : ℤ} (h : valueOf x = n) : sunits x = n * oneUnits := by
  rw [valueOf, div_eq_iff (by positivity)] at h
  rw [oneUnits]
  exact_mod_cast h

theorem valueOf_i2f {n : ℤ} (h : IntExact n) : valueOf (i2f n) = n := valueOf_of_sunits h.2

theorem f2i_of_sunits {x : F32} {n : ℤ} (h : sunits x = n * oneUnits) : f2i x = n := by
  have hsign : applySign (signBit x) n.natAbs = n := by
    rw [sunits_eq_applySign, units_of_sunits h, applySign_mul_nat] at h
    exact mul_right_cancel₀ (by decide : (oneUnits : ℤ) ≠ 0) h
  conv_rhs => rw [← hsign]
  rw [← Nat.mul_div_cancel n.natAbs (by decide : 0 < oneUnits), ← units_of_sunits h]
  rfl

/-! ## Sum and difference -/

/-- The sum of two samples that stand for integers is rounded as an integer, unless it is the zero of two negative zeros. -/
theorem fadd_of_int {x y : F32} {a b : ℤ} (hx : isFinite x = true) (hy : isFinite y = true) (ha : sunits x = a * oneUnits)
    (hb : sunits y = b * oneUnits) (hzero : a + b = 0 → (signBit x && signBit y) = false) : fadd x y = i2f (a + b) := by
  have hpos : (0 : ℤ) < oneUnits := by decide
  rw [fadd_of_finite hx hy, ha, hb, ← add_mul]
  by_cases h0 : a + b = 0
  · rw [h0, zero_mul, if_pos rfl, hzero h0]
    decide
  · have hneg : (a + b) * oneUnits < 0 ↔ a + b < 0 := by
      rw [mul_neg_iff]
      omega
    rw [if_neg (mul_ne_zero h0 hpos.ne'), i2f, Int.natAbs_mul, Int.natAbs_natCast, decide_eq_decide.2 hneg]

theorem fadd_i2f {a b : ℤ} (ha : IntExact a) (hb : IntExact b) : fadd (i2f a) (i2f b) = i2f (a + b) :=
  fadd_of_int ha.1 hb.1 ha.2 hb.2 fun h => by
    rw [signBit_i2f, signBit_i2f, ← Bool.decide_and, decide_eq_false]
    omega

theorem fsub_i2f {a b : ℤ} (ha : IntExact a) (hb : IntExact b) : fsub (i2f a) (i2f b) = i2f (a - b) := by
  have hneg : valueOf (fneg (i2f b)) = (-b : ℤ) := by rw [valueOf_fneg, valueOf_i2f hb, Int.cast_neg]
  refine fadd_of_int ha.1 ((isFinite_fneg _).trans hb.1) ha.2 (sunits_of_valueOf hneg) fun h => ?_
  rw [signBit_fneg, signBit_i2f, signBit_i2f, ← decide_not, ← Bool.decide_and, decide_eq_false]
  omega

/-! ## Sign, remainder, quotient -/

theorem fabs_withSign (neg : Bool) {mag : ℕ} (h : mag < 2 ^ 31) : fabs (withSign neg mag) = withSign false mag := by
  apply BitVec.eq_of_toNat_eq
  have hmod : (withSign neg mag).toNat % 2 ^ 31 = mag := magBits_withSign neg h
  rw [fabs, BitVec.toNat_and, toNat_withSign false h, if_neg Bool.false_ne_true]
  exact (Nat.and_two_pow_sub_one_eq_mod _ 31).trans hmod

theorem fabs_i2f (n : ℤ) : fabs (i2f n) = i2f |n| := by
  rw [i2f, roundUnits, fabs_withSign _ (roundMag_lt _ _), i2f, Int.natAbs_abs, roundUnits,
    decide_eq_false (not_lt.2 (abs_nonneg n))]

/-- The remainder modulo 12 of an integer is exact, as long as the integer is. -/
theorem fmod12_i2f {n : ℤ} (h : IntExact n) : fmod12 (i2f n) = i2f (n % 12) := by
  have hrem : emod (sunits (i2f n)) (12 * oneUnits : ℕ) = (n % 12) * oneUnits := by
    rw [emod_eq, h.2, Nat.cast_mul, mul_comm n, mul_comm (n % 12), mul_comm ((12 : ℕ) : ℤ)]
    exact Int.mul_emod_mul_of_pos n 12 (by decide)
  by_cases hmem : 0 ≤ valueOf (i2f n) ∧ valueOf (i2f n) < 12
  · rw [fmod12_of_mem h.1 hmem.1 hmem.2]
    rw [valueOf_i2f h] at hmem
    obtain ⟨h0, h12⟩ := hmem
    rw [Int.emod_eq_of_lt (by exact_mod_cast h0) (by exact_mod_cast h12)]
  · rw [fmod12_of_not_mem h.1 hmem, hrem, i2f, Int.natAbs_mul, Int.natAbs_natCast,
      decide_eq_false (not_lt.2 (Int.emod_nonneg n (by norm_num)))]

theorem isFinite_twelve : isFinite f32Twelve = true := by decide

/-- A multiple of 12 divided by 12 is rounded as an integer. -/
theorem fdiv_i2f_twelve {n : ℤ} (h : IntExact (12 * n)) : fdiv (i2f (12 * n)) f32Twelve = i2f n := by
  have hu : units f32Twelve = 12 * oneUnits := by decide
  have hs : signBit f32Twelve = false := by decide
  have hneg : 12 * n < 0 ↔ n < 0 := by omega
  have hnum : (12 * n).natAbs * oneUnits * oneUnits = n.natAbs * oneUnits * (12 * oneUnits) := by
    rw [Int.natAbs_mul]
    ring
  have hscale := roundMag_mul_right (n.natAbs * oneUnits) 1 (k := 12 * oneUnits) (by decide)
  rw [one_mul] at hscale
  rw [fdiv_of_finite h.1 isFinite_twelve (by rw [hu]; decide), hs, Bool.bne_false, signBit_i2f, units_of_sunits h.2, hu, hnum,
    roundUnits, hscale, decide_eq_decide.2 hneg, i2f, roundUnits]

end Sys2Proof.Machine
end

section
/-! PROOFS. Rotated scale entries, and the quantizer over the empty scale (R106, R110). -/

namespace Sys2Proof.Machine

/-! ## Rotated entries -/

theorem signBit_of_entryOk {e : F32} (h : entryOk e = true) : signBit e = false := by
  rw [entryOk, decide_eq_true_eq] at h
  rw [signBit, BitVec.getLsbD, Nat.testBit_lt_two_pow (by omega)]

theorem isFinite_of_entryOk {e : F32} (h : entryOk e = true) : isFinite e = true := by
  rw [entryOk, decide_eq_true_eq] at h
  rw [isFinite, magBits, Nat.mod_eq_of_lt (by omega), decide_eq_true_eq]
  exact h

/-- An integral entry is the sample of an integer. -/
theorem exists_i2f_of_entry {e : F32} (hok : entryOk e = true) (hint : entryIntegral e = true) :
    ∃ m, e = i2f m ∧ IntExact m := by
  rw [entryIntegral, decide_eq_true_eq] at hint
  obtain ⟨k, hk⟩ := Nat.dvd_of_mod_eq_zero hint
  have hsign := signBit_of_entryOk hok
  refine ⟨k, eq_i2f (isFinite_of_entryOk hok) ?_ ?_⟩
  · rw [sunits_eq_applySign, hsign, hk, mul_comm, applySign_mul_nat]
    rfl
  · rw [hsign, decide_eq_false (by omega)]

/-- The largest finite sample is half a quantum below the overflow bound. -/
theorem abs_valueOf_le {x : F32} (h : isFinite x = true) : |valueOf x| ≤ overflowBound - 2 ^ 103 := by
  have hunits : units x ≤ (2 ^ 24 - 1) * 2 ^ 253 := by
    rw [isFinite, decide_eq_true_eq] at h
    rw [units_eq_magUnits, magUnits]
    split
    · omega
    · exact Nat.mul_le_mul (by omega) (Nat.pow_le_pow_right (by norm_num) (by omega))
  rw [← mul_le_mul_iff_left₀ (by positivity : (0 : ℚ) < 2 ^ 149), abs_valueOf, overflowBound]
  have hcast : (units x : ℚ) ≤ ((2 ^ 24 - 1) * 2 ^ 253 : ℕ) := by exact_mod_cast hunits
  norm_num at hcast ⊢
  exact hcast

theorem abs_sext_le (p : ParamWord) : |sext p| ≤ 2 ^ 15 := by
  obtain ⟨hlo, hhi⟩ := sext_range p
  rw [abs_le]
  omega

theorem intExact_sext (p : ParamWord) : IntExact (sext p) := intExact_of_lt ((abs_sext_le p).trans_lt (by norm_num))

/-- No rotation takes an entry out of the finite samples. -/
theorem isFinite_fadd_rotation (p : Params) {e : F32} (h : isFinite e = true) :
    isFinite (fadd e (i2f (sext p.rotation))) = true := by
  have hrot := intExact_sext p.rotation
  have hle : |(sext p.rotation : ℚ)| ≤ 2 ^ 15 := by exact_mod_cast abs_sext_le p.rotation
  have hsum : |valueOf e + valueOf (i2f (sext p.rotation))| < overflowBound := by
    rw [valueOf_i2f hrot]
    linarith [abs_add_le (valueOf e) (sext p.rotation), abs_valueOf_le h]
  exact (isRounded_fadd h hrot.1 hsum).1

/-- Settles O49: the rotated sum is an integer, whose remainder modulo 12 is exact. -/
theorem integralEntriesRotateToPitchClasses : Obligations.IntegralEntriesRotateToPitchClasses := by
  intro p e hok hint
  have hfin := isFinite_fadd_rotation p (isFinite_of_entryOk hok)
  obtain ⟨m, rfl, hm⟩ := exists_i2f_of_entry hok hint
  have hsum : fadd (i2f m) (i2f (sext p.rotation)) = i2f (m + sext p.rotation) := fadd_i2f hm (intExact_sext p.rotation)
  rw [hsum] at hfin
  obtain ⟨n, hn, hexact⟩ := exists_i2f_eq hfin
  have hrange := emod_range n (b := 12) (by norm_num)
  rw [emod_eq] at hrange
  refine ⟨(n % 12).toNat, by omega, ?_⟩
  rw [rotated, hsum, hn, fmod12_i2f hexact, Int.toNat_of_nonneg hrange.1]

/-! ## The empty scale -/

theorem abs_f2i_le {m : F32} (h : inDomain m = true) : |f2i m| ≤ 2 ^ 30 := by
  have hle : units m / oneUnits ≤ 2 ^ 30 := by
    rw [inDomain, Bool.and_eq_true, decide_eq_true_eq] at h
    exact Nat.div_le_of_le_mul (by rw [mul_comm]; exact h.2)
  have hf2i : f2i m = applySign (signBit m) (units m / oneUnits) := rfl
  rw [hf2i, Int.abs_eq_natAbs, natAbs_applySign]
  exact_mod_cast hle

/-- In the domain the octave has a finite sample. -/
theorem isFinite_i2f_octave (p : Params) {m : F32} (h : inDomain m = true) :
    isFinite (i2f (12 * (semitoneCount p m / 12))) = true := by
  have hbound : |12 * (semitoneCount p m / 12)| ≤ 2 ^ 31 := by
    have hm := abs_le.1 (abs_f2i_le h)
    obtain ⟨hr0, hr1⟩ := sext_range p.root
    obtain ⟨ht0, ht1⟩ := sext_range p.transpose
    rw [abs_le, semitoneCount]
    omega
  have hcast : |((12 * (semitoneCount p m / 12) : ℤ) : ℚ)| ≤ 2 ^ 31 := by exact_mod_cast hbound
  exact isFinite_i2f (hcast.trans_lt (by norm_num [overflowBound]))

theorem fadd_i2f_zero {n : ℤ} (h : isFinite (i2f n) = true) : fadd (i2f n) 0 = i2f n := by
  have hzero : (0 : F32) = i2f 0 := by decide
  obtain ⟨m, hm, hexact⟩ := exists_i2f_eq h
  rw [hm, hzero, fadd_i2f hexact (intExact_of_lt (by norm_num)), add_zero]

/-- Settles O47: nothing is selected, +0.0 is added to the octave, and the quotient of an exact multiple of 12 is rounded as the
integer. -/
theorem qntEmptyAnswersTheOctaveFloor : Obligations.QntEmptyAnswersTheOctaveFloor := by
  intro k s m n hdom
  have hfin : isFinite (i2f (12 * (n / 12))) = true := isFinite_i2f_octave s.params hdom
  refine ⟨?_, fun hval => fdiv_i2f_twelve ⟨hfin, sunits_of_valueOf hval⟩⟩
  have hq : reconstruct (n / 12) (select s.params (n % 12) [] none) = fdiv (i2f (12 * (n / 12))) f32Twelve := by
    rw [select, reconstruct, fadd_i2f_zero hfin]
  rw [← hq]
  exact quantizeStage_of_inDomain (c := device) [] hdom

end Sys2Proof.Machine
end

section
/-! PROOFS. Rounding to an integer (R104). -/

namespace Sys2Proof.Machine

/-! ## The nearest integer under a tie rule -/

/-- The nearest integer is at most half a unit off; at an exact half it lies above, or is even, as the rule says. -/
theorem nearestInt_error (tie : TieRule) (u : ℕ) :
    2 * |(nearestInt tie u * oneUnits - u : ℤ)| ≤ oneUnits ∧
      (2 * |(nearestInt tie u * oneUnits - u : ℤ)| = oneUnits →
        (tie = .halfAway → u < nearestInt tie u * oneUnits) ∧ (tie = .halfEven → nearestInt tie u % 2 = 0)) := by
  have hpos : 0 < oneUnits := by decide
  cases tie with
  | halfEven =>
    obtain ⟨hle, heven⟩ := nearestEven_error u hpos
    exact ⟨hle, fun h => ⟨nofun, fun _ => heven h⟩⟩
  | halfAway =>
    have hdiv : u / oneUnits * oneUnits + u % oneUnits = u := Nat.div_add_mod' u oneUnits
    have hmod : u % oneUnits < oneUnits := Nat.mod_lt _ hpos
    simp only [nearestInt, reduceCtorEq, false_implies, true_implies, and_true]
    generalize u % oneUnits = r at *
    generalize u / oneUnits = q at *
    generalize oneUnits = d at *
    split
    · have herr : (((q + 1 : ℕ) : ℤ) * d - u : ℤ) = d - r := by rw [← hdiv]; push_cast; ring
      rw [herr, abs_of_nonneg (by omega), add_mul, one_mul]
      omega
    · have herr : ((q : ℤ) * d - u : ℤ) = -r := by rw [← hdiv]; push_cast; ring
      rw [herr, abs_neg, Nat.abs_cast]
      omega

theorem nearestInt_mul (tie : TieRule) (k : ℕ) : nearestInt tie (k * oneUnits) = k := by
  have herr := (nearestInt_error tie (k * oneUnits)).1
  have hpos : 0 < oneUnits := by decide
  rw [Nat.cast_mul, ← sub_mul, abs_mul, Nat.abs_cast] at herr
  by_contra hne
  have hgap : 1 ≤ |(nearestInt tie (k * oneUnits) - k : ℤ)| := Int.one_le_abs (by omega)
  nlinarith

/-- Below `2^23` the nearest integer is at most `2^23`. -/
theorem nearestInt_le {tie : TieRule} {u : ℕ} (h : u < 2 ^ 23 * oneUnits) : nearestInt tie u ≤ 2 ^ 23 := by
  have herr := (nearestInt_error tie u).1
  have habs := le_abs_self (nearestInt tie u * oneUnits - u : ℤ)
  have hlt : nearestInt tie u * oneUnits < (2 ^ 23 + 1) * oneUnits := by
    rw [add_mul, one_mul]
    omega
  exact Nat.lt_succ_iff.1 (Nat.lt_of_mul_lt_mul_right hlt)

/-! ## The sample of the nearest integer -/

/-- A magnitude from `2^23` on is an integer already. -/
theorem exists_units_eq_mul {x : F32} (h : 2 ^ 23 * oneUnits ≤ units x) : ∃ k, units x = k * oneUnits :=
  (magUnits_grid 149 (magBits x)).resolve_right h.not_gt

/-- The nearest integer needs no rounding to be a sample. -/
theorem roundMag_nearestInt (tie : TieRule) {x : F32} (h : isFinite x = true) :
    roundMag (nearestInt tie (units x) * oneUnits) 1 < 0x7F800000 ∧
      magUnits (roundMag (nearestInt tie (units x) * oneUnits) 1) = nearestInt tie (units x) * oneUnits := by
  rcases Nat.lt_or_ge (units x) (2 ^ 23 * oneUnits) with hlt | hge
  · have hN := nearestInt_le (tie := tie) hlt
    obtain ⟨hfin, hval⟩ := intExact_of_lt (n := nearestInt tie (units x)) (by rw [Nat.abs_cast]; omega)
    have hunits := units_of_sunits hval
    rw [isFinite_i2f_iff] at hfin
    rw [units_i2f] at hunits
    exact ⟨hfin, hunits⟩
  · obtain ⟨k, hk⟩ := exists_units_eq_mul hge
    have hsame : nearestInt tie (units x) * oneUnits = units x := by rw [hk, nearestInt_mul]
    rw [hsame, roundMag_units h]
    exact ⟨by rwa [isFinite, decide_eq_true_eq] at h, rfl⟩

/-- Values of one sign are as far apart as their magnitudes. -/
theorem abs_applySign_sub (neg : Bool) (a b : ℕ) : |applySign neg a - applySign neg b| = |(a - b : ℤ)| := by
  cases neg with
  | false => rfl
  | true => rw [applySign, applySign, if_pos rfl, if_pos rfl, neg_sub_neg, abs_sub_comm]

section

variable {x : F32} (tie : TieRule) (h : isFinite x = true)
include h

theorem fround_of_finite : fround tie x = roundUnits (signBit x) (nearestInt tie (units x) * oneUnits) 1 := by
  rw [fround, if_pos h]

theorem isFinite_fround : isFinite (fround tie x) = true := by
  rw [fround_of_finite tie h, isFinite_roundUnits]
  exact (roundMag_nearestInt tie h).1

theorem signBit_fround : signBit (fround tie x) = signBit x := by
  rw [fround_of_finite tie h, signBit_roundUnits]

theorem units_fround : units (fround tie x) = nearestInt tie (units x) * oneUnits := by
  rw [fround_of_finite tie h, units_roundUnits]
  exact (roundMag_nearestInt tie h).2

/-- `fround` answers the nearest integer with the argument's sign. -/
theorem sunits_fround : sunits (fround tie x) = applySign (signBit x) (nearestInt tie (units x)) * oneUnits := by
  rw [sunits_eq_applySign, signBit_fround tie h, units_fround tie h, applySign_mul_nat]

/-- Argument and answer have one sign, so they are as far apart as their magnitudes. -/
theorem abs_fround_sub :
    |valueOf (fround tie x) - valueOf x| * 2 ^ 149 = (|nearestInt tie (units x) * oneUnits - units x| : ℤ) := by
  have hx : valueOf x * (2 ^ 149 * (1 : ℕ)) = sunits x := by
    rw [Nat.cast_one, mul_one, valueOf, div_mul_cancel₀ _ (by positivity)]
  have hdist := abs_valueOf_sub hx (fround tie x)
  rw [Nat.cast_one, Nat.cast_one, mul_one, mul_one, sunits_eq_applySign, sunits_eq_applySign, signBit_fround tie h,
    units_fround tie h, abs_applySign_sub] at hdist
  rw [hdist, Nat.cast_mul]

end

/-- Settles O53: the error of `nearestInt`, in multiples of `2^-149`. -/
theorem roundingToAnIntegerFollowsQround : Obligations.RoundingToAnIntegerFollowsQround := by
  refine ⟨rfl, fun tie x h => ⟨applySign (signBit x) (nearestInt tie (units x)), isFinite_fround tie h, signBit_fround tie h,
    valueOf_of_sunits (sunits_fround tie h), f2i_of_sunits (sunits_fround tie h), ?_⟩⟩
  obtain ⟨herr, htie⟩ := nearestInt_error tie (units x)
  have hdist := abs_fround_sub tie h
  have hone : (oneUnits : ℚ) = 2 ^ 149 := by norm_num [oneUnits]
  rw [← valueOf_of_sunits (sunits_fround tie h)]
  refine ⟨?_, fun hhalf => ?_⟩
  · have : (2 * |(nearestInt tie (units x) * oneUnits - units x : ℤ)| : ℚ) ≤ oneUnits := by exact_mod_cast herr
    rw [← hdist, hone] at this
    linarith
  · rw [hhalf] at hdist
    have hhalf' : (2 * |(nearestInt tie (units x) * oneUnits - units x : ℤ)| : ℚ) = oneUnits := by
      rw [← hdist, hone]
      ring
    obtain ⟨haway, heven⟩ := htie (by exact_mod_cast hhalf')
    refine ⟨fun ht => ?_, fun ht => ?_⟩
    · rw [← mul_lt_mul_iff_left₀ (by positivity : (0 : ℚ) < 2 ^ 149), abs_valueOf, abs_valueOf, units_fround tie h]
      exact_mod_cast haway ht
    · rw [← Int.natAbs_dvd_natAbs, natAbs_applySign]
      exact Nat.dvd_of_mod_eq_zero (heven ht)

end Sys2Proof.Machine
end

section
/-! PROOFS. The search of the quantizer (R107, R108, R115). -/

namespace Sys2Proof.Machine

/-! ## Distances -/

theorem isFinite_fabs {x : F32} (h : isFinite x = true) : isFinite (fabs x) = true := by
  have hmag : magBits x < 2 ^ 31 := Nat.mod_lt _ (by norm_num)
  rw [← withSign_signBit_magBits x, fabs_withSign _ hmag, isFinite, magBits_withSign false hmag]
  exact h

theorem isFinite_rotated (p : Params) {e : F32} (h : isFinite e = true) : isFinite (rotated p e) = true :=
  (isRounded_fmod12 (isFinite_fadd_rotation p h)).1

/-- The exact remainder lies within 12 of 0, and 0 is a sample, so the rotated entry lies within 12 of the remainder. -/
theorem abs_valueOf_rotated_lt (p : Params) {e : F32} (h : isFinite e = true) : |valueOf (rotated p e)| < 24 := by
  obtain ⟨-, hnear, -⟩ := isRounded_fmod12 (isFinite_fadd_rotation p h)
  have hrem := abs_sub_twelve_mul_floor_lt (valueOf (fadd e (i2f (sext p.rotation))))
  generalize valueOf (fadd e (i2f (sext p.rotation))) = x at *
  have hzero : |valueOf (rotated p e) - (x - 12 * ⌊x / 12⌋)| ≤ |valueOf (withSign false 0) - (x - 12 * ⌊x / 12⌋)| :=
    hnear _ (valueOf_withSign_zero false).1
  rw [(valueOf_withSign_zero false).2, zero_sub, abs_neg] at hzero
  linarith [abs_sub_abs_le_abs_sub (valueOf (rotated p e)) (x - 12 * ⌊x / 12⌋)]

theorem intExact_pitchClass (n : ℤ) : IntExact (n % 12) := intExact_of_lt (by rw [abs_lt]; omega)

/-- The distance of an entry from a pitch class is a number, so distances are compared by value. -/
theorem isFinite_distance (p : Params) (n : ℤ) {e : F32} (h : isFinite e = true) :
    isFinite (distance (rotated p e) (n % 12)) = true := by
  have hpc : |((n % 12 : ℤ) : ℚ)| < 12 := by
    have : |n % 12| < 12 := by rw [abs_lt]; omega
    exact_mod_cast this
  have hdiff : |valueOf (rotated p e) - valueOf (i2f (n % 12))| < overflowBound := by
    rw [valueOf_i2f (intExact_pitchClass n)]
    have hbound : (36 : ℚ) < overflowBound := by norm_num [overflowBound]
    linarith [abs_sub (valueOf (rotated p e)) ((n % 12 : ℤ) : ℚ), abs_valueOf_rotated_lt p h]
  have hsub := isRounded_fsub (isFinite_rotated p h) (intExact_pitchClass n).1 hdiff
  exact (isRounded_fmod12 (isFinite_fabs hsub.1)).1

theorem fle_iff {x y : F32} (hx : isFinite x = true) (hy : isFinite y = true) : fle x y = true ↔ valueOf x ≤ valueOf y := by
  rw [valueOf, valueOf, div_le_div_iff_of_pos_right (by positivity), Int.cast_le]
  simp [fle, isFinite_not_isNaN, hx, hy]

theorem flt_iff {x y : F32} (hx : isFinite x = true) (hy : isFinite y = true) : flt x y = true ↔ valueOf x < valueOf y := by
  rw [valueOf, valueOf, div_lt_div_iff_of_pos_right (by positivity), Int.cast_lt]
  simp [flt, isFinite_not_isNaN, hx, hy]

/-! ## The first least element -/

/-- `e` is the element of `S` at `j`, the lowest index among those with the least key. -/
def FirstLeast (key : F32 → ℚ) (S : List F32) (j : ℕ) (e : F32) : Prop :=
  S[j]? = some e ∧ ∀ (i : ℕ) (e' : F32), S[i]? = some e' → key e ≤ key e' ∧ (i < j → key e < key e')

theorem getElem?_concat_eq_some {S : List F32} {x y : F32} {i : ℕ} (h : (S ++ [x])[i]? = some y) :
    S[i]? = some y ∨ i = S.length ∧ y = x := by
  rw [List.getElem?_append] at h
  split at h
  · exact .inl h
  · next hge =>
    rw [List.getElem?_singleton, Option.ite_none_right_eq_some, Option.some.injEq] at h
    exact .inr ⟨by omega, h.2.symm⟩

section

variable {key : F32 → ℚ}

theorem firstLeast_singleton (x : F32) : FirstLeast key [x] 0 x := by
  refine ⟨rfl, fun i y hy => ?_⟩
  obtain hnil | ⟨hi, rfl⟩ := getElem?_concat_eq_some (S := []) hy
  · simp at hnil
  · exact ⟨le_rfl, by rw [hi]; nofun⟩

variable {S : List F32} {j : ℕ} {e x : F32}

/-- A next element below the least takes its place. -/
theorem FirstLeast.concat_of_lt (h : FirstLeast key S j e) (hlt : key x < key e) :
    FirstLeast key (S ++ [x]) S.length x := by
  refine ⟨List.getElem?_concat_length, fun i y hy => ?_⟩
  obtain hS | ⟨rfl, rfl⟩ := getElem?_concat_eq_some hy
  · have hxy := hlt.trans_le (h.2 i y hS).1
    exact ⟨hxy.le, fun _ => hxy⟩
  · exact ⟨le_rfl, fun hi => absurd hi (lt_irrefl _)⟩

/-- A next element not below the least leaves it. -/
theorem FirstLeast.concat_of_le (h : FirstLeast key S j e) (hle : key e ≤ key x) : FirstLeast key (S ++ [x]) j e := by
  obtain ⟨he, hleast⟩ := h
  have hj : j < S.length := (List.getElem?_eq_some_iff.1 he).1
  refine ⟨by rw [List.getElem?_append_left hj, he], fun i y hy => ?_⟩
  obtain hS | ⟨rfl, rfl⟩ := getElem?_concat_eq_some hy
  · exact hleast i y hS
  · exact ⟨hle, fun hi => absurd hi hj.not_gt⟩

end

/-! ## The search -/

/-- What the search compares entries by: the distance from the pitch class of `n` (R107), as a number. -/
def pitchDistance (p : Params) (n : ℤ) (e : F32) : ℚ := valueOf (distance (rotated p e) (n % 12))

/-- The search, begun after the entries `S`, ends at the first nearest entry of the whole list (R108). -/
theorem select_some (p : Params) (n : ℤ) {S : List F32} {j : ℕ} {e : F32} (es : List F32)
    (hfin : ∀ y ∈ S ++ es, isFinite y = true)
    (h : FirstLeast (pitchDistance p n) S j e) :
    ∃ j' e', FirstLeast (pitchDistance p n) (S ++ es) j' e' ∧
      select p (n % 12) es (some (distance (rotated p e) (n % 12), rotated p e)) = rotated p e' := by
  induction es generalizing S j e with
  | nil => exact ⟨j, e, by rwa [List.append_nil], rfl⟩
  | cons x es ih =>
    have hx : isFinite x = true := hfin x (by simp)
    have he : isFinite e = true := hfin e (List.mem_append_left _ (List.mem_of_getElem? h.1))
    have hcmp := flt_iff (isFinite_distance p n hx) (isFinite_distance p n he)
    rw [List.append_cons] at *
    rw [select]
    split
    · next hlt => exact ih hfin (h.concat_of_lt (hcmp.1 hlt))
    · next hge => exact ih hfin (h.concat_of_le (not_lt.1 (mt hcmp.2 hge)))

theorem scaleOk_entries {S : List F32} (h : scaleOk S = true) : S ≠ [] ∧ ∀ e ∈ S, entryOk e = true := by
  simp only [scaleOk, Bool.and_eq_true, decide_eq_true_eq, List.all_eq_true] at h
  obtain ⟨⟨⟨⟨hlen, -⟩, -⟩, hall⟩, -⟩ := h
  exact ⟨by rintro rfl; simp at hlen, hall⟩

theorem isFinite_of_mem_scale {S : List F32} (h : scaleOk S = true) {e : F32} (he : e ∈ S) : isFinite e = true :=
  isFinite_of_entryOk ((scaleOk_entries h).2 e he)

/-- Over a scale the search ends at the first nearest entry. -/
theorem exists_select_eq (p : Params) (n : ℤ) {S : List F32} (hok : scaleOk S = true) :
    ∃ j e, FirstLeast (pitchDistance p n) S j e ∧ select p (n % 12) S none = rotated p e := by
  obtain ⟨x, es, rfl⟩ := List.exists_cons_of_ne_nil (scaleOk_entries hok).1
  exact select_some p n es (fun y hy => isFinite_of_mem_scale hok hy) (firstLeast_singleton x)

/-- In the domain a stage over a scale answers from the first nearest entry. -/
theorem quantizeStage_firstNearest {w : ℕ} {c : Config w} {S : List F32} {k : Stage} {s : State.At w} (hok : scaleOk S = true)
    (h : inDomain (semitones c (s.loc.tap.get k)) = true) :
    ∃ q, quantizeStage c S k s = .next (setQ s k q) ∧
      FirstNearest s.params S (semitoneCount s.params (semitones c (s.loc.tap.get k))) q := by
  generalize hn : semitoneCount s.params (semitones c (s.loc.tap.get k)) = n
  obtain ⟨j, e, ⟨he, hnear⟩, hsel⟩ := exists_select_eq s.params n hok
  have hfin := fun {i y} (hy : S[i]? = some y) =>
    isFinite_distance s.params n (isFinite_of_mem_scale hok (List.mem_of_getElem? hy))
  refine ⟨_, quantizeStage_of_inDomain S h, j, e, he, by rw [hn, hsel, reconstruct], fun i y hy => ?_⟩
  rw [fle_iff (hfin he) (hfin hy), flt_iff (hfin he) (hfin hy)]
  exact hnear i y hy

/-- Settles O48: each row searches the scale of its index. -/
theorem quantizerPicksTheFirstNearestEntry : Obligations.QuantizerPicksTheFirstNearestEntry := by
  intro k s m n hdom
  refine ⟨fun i hi => ?_, fun i hi => ?_⟩
  · have hS : stdEntries device (sext s.params.scale) = (Config.openStdRom i).entries :=
      (congrArg _ hi).trans (stdEntries_val device i)
    rw [← hS]
    exact quantizeStage_firstNearest (c := device) (hS ▸ (Config.openStdRom i).ok) hdom
  · have hS : exoEntries device (sext s.params.scale) = (Config.openExoRom i).entries :=
      (congrArg _ hi).trans (exoEntries_val device i)
    rw [← hS]
    exact quantizeStage_firstNearest (c := device) (hS ▸ (Config.openExoRom i).ok) hdom

end Sys2Proof.Machine
end

section
/-! PROOFS. Quantizing a quantized value (R116): the value of a semitone count reads back as that count, and then its own pitch
class is the only nearest one. -/

namespace Sys2Proof.Machine

variable {w : ℕ}

/-! ## The error of one rounding -/

/-- Half a quantum is at most `2^-24` of the magnitude, or half a unit. -/
theorem magUnits_roundMag_error (num : ℕ) {den : ℕ} (hd : 0 < den) (hfin : roundMag num den < 0x7F800000) :
    2 ^ 24 * |(magUnits (roundMag num den) * den - num : ℤ)| ≤ num + 2 ^ 23 * den := by
  have herr := (nearestEven_error num (den := den * 2 ^ quantumExp num den) (by positivity)).1
  have hquantum : 2 ^ 23 * (den * 2 ^ quantumExp num den) ≤ num + 2 ^ 23 * den := by
    rcases Nat.eq_zero_or_pos (quantumExp num den) with h0 | hpos
    · simp [h0]
    · exact (le_of_quantumExp_pos hd hpos).trans (Nat.le_add_right _ _)
  have hscale : ((magUnits (roundMag num den) : ℤ) * den - num) =
      nearestEven num (den * 2 ^ quantumExp num den) * (den * 2 ^ quantumExp num den : ℕ) - num := by
    rw [magUnits_roundMag hd hfin]
    push_cast
    ring
  rw [hscale]
  omega

/-- The rounded sample is off by at most `2^-24` of the exact number and half the least sample. -/
theorem abs_roundUnits_sub_le {neg : Bool} {num den : ℕ} {y : ℚ} (hd : 0 < den)
    (hy : y * (2 ^ 149 * den) = applySign neg num) (hfin : isFinite (roundUnits neg num den) = true) :
    |valueOf (roundUnits neg num den) - y| ≤ |y| / 2 ^ 24 + 1 / 2 ^ 150 := by
  have hpos : (0 : ℚ) < 2 ^ 149 * den := by positivity
  have hnum : |y| * (2 ^ 149 * den) = num := by
    rw [← abs_of_pos hpos, ← abs_mul, hy, ← Int.cast_abs, Int.abs_eq_natAbs, natAbs_applySign, Int.cast_natCast]
  have herr := magUnits_roundMag_error num hd (isFinite_roundUnits.1 hfin)
  have hdist := abs_valueOf_sub hy (roundUnits neg num den)
  rw [sunits_eq_applySign, signBit_roundUnits, units_roundUnits, ← applySign_mul_nat, abs_applySign_sub, Nat.cast_mul] at hdist
  generalize |(magUnits (roundMag num den) * den - num : ℤ)| = err at *
  have herrq : (2 ^ 24 * err : ℚ) ≤ num + 2 ^ 23 * den := by exact_mod_cast herr
  have hbound : (|y| / 2 ^ 24 + 1 / 2 ^ 150) * (2 ^ 149 * den) = (|y| * (2 ^ 149 * den) + 2 ^ 23 * den) / 2 ^ 24 := by ring
  rw [← mul_le_mul_iff_left₀ hpos, hdist, hbound, hnum, le_div_iff₀ (by positivity), mul_comm]
  exact herrq

/-- So is every correctly rounded number: no sample is nearer. -/
theorem IsRounded.abs_sub_le {r : F32} {y : ℚ} (h : IsRounded r y) (hb : |y| < overflowBound) :
    |valueOf r - y| ≤ |y| / 2 ^ 24 + 1 / 2 ^ 150 := by
  have hy : y * (2 ^ 149 * y.den) = applySign (decide (y.num < 0)) (y.num.natAbs * 2 ^ 149) := by
    rw [applySign_mul_nat, applySign_natAbs, mul_left_comm, Rat.mul_den_eq_num, mul_comm]
    push_cast
    rfl
  have hfin := (isRounded_roundUnits y.den_pos hy hb).1
  exact (h.2.1 _ hfin).trans (abs_roundUnits_sub_le y.den_pos hy hfin)

/-! ## Reading a semitone count back -/

theorem valueOf_twelve : valueOf f32Twelve = 12 := valueOf_of_sunits (n := 12) sunits_twelve

/-- The quantized value of semitone count `n` is `n / 12`, off by less than `2^-6`. -/
theorem abs_fdiv_twelve_sub {n : ℤ} (h : |n| ≤ 2 ^ 21) :
    isFinite (fdiv (i2f n) f32Twelve) = true ∧ |valueOf (fdiv (i2f n) f32Twelve) - n / 12| < 1 / 2 ^ 6 := by
  have hn : |(n : ℚ)| ≤ 2 ^ 21 := by exact_mod_cast h
  have hexact : IntExact n := intExact_of_lt (h.trans_lt (by norm_num))
  have hquot : |(n : ℚ) / 12| ≤ 2 ^ 21 / 12 := by
    rw [abs_div, abs_of_pos (by norm_num : (0 : ℚ) < 12)]
    linarith
  have hbound : |(n : ℚ) / 12| < overflowBound := hquot.trans_lt (by norm_num [overflowBound])
  have hround := isRounded_fdiv hexact.1 isFinite_twelve (by rw [valueOf_twelve]; norm_num)
    (by rwa [valueOf_i2f hexact, valueOf_twelve])
  rw [valueOf_i2f hexact, valueOf_twelve] at hround
  exact ⟨hround.1, by linarith [hround.abs_sub_le hbound]⟩

/-- Times 12 it is within half a semitone of `n`. -/
theorem abs_fmul_fdiv_twelve_sub {n : ℤ} (h : |n| ≤ 2 ^ 21) :
    isFinite (fmul (fdiv (i2f n) f32Twelve) f32Twelve) = true ∧
      |valueOf (fmul (fdiv (i2f n) f32Twelve) f32Twelve) - n| < 1 / 2 := by
  obtain ⟨hfin, herr⟩ := abs_fdiv_twelve_sub h
  generalize fdiv (i2f n) f32Twelve = q at *
  have hn : |(n : ℚ)| ≤ 2 ^ 21 := by exact_mod_cast h
  have hexactErr : |valueOf q * 12 - n| < 12 / 2 ^ 6 := by
    rw [show valueOf q * 12 - n = 12 * (valueOf q - n / 12) by ring, abs_mul, abs_of_pos (by norm_num : (0 : ℚ) < 12)]
    linarith
  have hprod : |valueOf q * 12| ≤ 2 ^ 22 := by linarith [abs_sub_abs_le_abs_sub (valueOf q * 12) n]
  have hbound : |valueOf q * 12| < overflowBound := hprod.trans_lt (by norm_num [overflowBound])
  have hround := isRounded_fmul hfin isFinite_twelve (by rwa [valueOf_twelve])
  rw [valueOf_twelve] at hround
  exact ⟨hround.1, by linarith [hround.abs_sub_le hbound, abs_sub_le (valueOf (fmul q f32Twelve)) (valueOf q * 12) n]⟩

/-- A quantized value reads back as its semitone count, under both tie rules. -/
theorem semitones_fdiv_twelve (c : Config w) {n : ℤ} (h : |n| ≤ 2 ^ 21) :
    inDomain (semitones c (fdiv (i2f n) f32Twelve)) = true ∧ f2i (semitones c (fdiv (i2f n) f32Twelve)) = n := by
  obtain ⟨hfin, hnear⟩ := abs_fmul_fdiv_twelve_sub h
  obtain ⟨m, hmfin, -, hval, hf2i, hhalf, -⟩ := roundingToAnIntegerFollowsQround.2 c.qround _ hfin
  have hmn : |m - n| < 1 := by
    have : |((m - n : ℤ) : ℚ)| < 1 := by
      rw [Int.cast_sub]
      linarith [abs_sub_le (m : ℚ) (valueOf (fmul (fdiv (i2f n) f32Twelve) f32Twelve)) n]
    exact_mod_cast this
  obtain rfl : m = n := by
    rw [Int.abs_lt_one_iff] at hmn
    omega
  refine ⟨(inDomain_iff _).2 ⟨hmfin, ?_⟩, hf2i⟩
  rw [semitones, hval]
  have : |(m : ℚ)| ≤ 2 ^ 21 := by exact_mod_cast h
  linarith

/-! ## The search over integral entries -/

/-- Pitch classes are as far apart as the integers. -/
theorem valueOf_distance_i2f {r pc : ℤ} (hr : 0 ≤ r ∧ r < 12) (hpc : 0 ≤ pc ∧ pc < 12) :
    valueOf (distance (i2f r) pc) = (|r - pc| : ℤ) := by
  have hexact : ∀ {z : ℤ}, |z| < 12 → IntExact z := fun hz => intExact_of_lt (hz.trans (by norm_num))
  have hdiff : |r - pc| < 12 := by rw [abs_lt]; omega
  have habs : IntExact |r - pc| := hexact (by rwa [abs_abs])
  rw [distance, fsub_i2f (hexact (by rw [abs_lt]; omega)) (hexact (by rw [abs_lt]; omega)), fabs_i2f, fmod12_i2f habs,
    Int.emod_eq_of_lt (abs_nonneg _) hdiff, valueOf_i2f habs]

section

variable {p : Params} {S : List F32} (hok : scaleOk S = true) (hint : S.all entryIntegral = true)
include hok hint

theorem exists_rotated_eq {e : F32} (he : e ∈ S) : ∃ r : ℕ, r < 12 ∧ rotated p e = i2f r :=
  integralEntriesRotateToPitchClasses p e ((scaleOk_entries hok).2 e he) (List.all_eq_true.1 hint e he)

/-- Over an integral scale the entry selected is a pitch class of the rotated scale. -/
theorem exists_select_eq_i2f (n : ℤ) : ∃ e ∈ S, ∃ r : ℕ, r < 12 ∧ rotated p e = i2f r ∧ select p (n % 12) S none = i2f r := by
  obtain ⟨j, e, ⟨he, -⟩, hsel⟩ := exists_select_eq p n hok
  obtain ⟨r, hr, hrot⟩ := exists_rotated_eq (p := p) hok hint (List.mem_of_getElem? he)
  exact ⟨e, List.mem_of_getElem? he, r, hr, hrot, by rw [hsel, hrot]⟩

/-- A pitch class of the rotated scale is the one selected for it: no other is at distance 0. -/
theorem select_of_rotated_eq {e : F32} (he : e ∈ S) {n : ℤ} (hrot : rotated p e = i2f (n % 12)) :
    select p (n % 12) S none = i2f (n % 12) := by
  obtain ⟨j, e', ⟨he', hleast⟩, hsel⟩ := exists_select_eq p n hok
  obtain ⟨r, hr, hrot'⟩ := exists_rotated_eq (p := p) hok hint (List.mem_of_getElem? he')
  obtain ⟨i, hi⟩ := List.mem_iff_getElem?.1 he
  have hpc : 0 ≤ n % 12 ∧ n % 12 < 12 := by omega
  have hle := (hleast i e hi).1
  rw [pitchDistance, pitchDistance, hrot, hrot', valueOf_distance_i2f hpc hpc, valueOf_distance_i2f (by omega) hpc, Int.cast_le,
    sub_self, abs_zero] at hle
  rw [hsel, hrot', sub_eq_zero.1 (abs_nonpos_iff.1 hle)]

end

/-! ## Idempotence -/

/-- The value rebuilt from octave and pitch class is that of their semitone count. -/
theorem reconstruct_i2f {oct : ℤ} {r : ℕ} (hoct : |12 * oct| < 2 ^ 24) (hr : r < 12) :
    reconstruct oct (i2f r) = fdiv (i2f (12 * oct + r)) f32Twelve := by
  rw [reconstruct, fadd_i2f (intExact_of_lt hoct) (intExact_of_lt (by rw [Nat.abs_cast]; omega))]

/-- Settles O51: the value is a semitone count over 12, which reads back as that count, and its pitch class stands in the
rotated scale. -/
theorem quantizerIsIdempotentOnIntegralScales : Obligations.QuantizerIsIdempotentOnIntegralScales := by
  intro w c p S v q hroot hok hint hn hq
  have hdom : inDomain (semitones c v) = true := by
    by_contra hout
    rw [quantize, if_neg hout] at hq
    exact Option.some_ne_none q hq.symm
  rw [quantize_of_inDomain c p S hdom, Option.some.injEq] at hq
  generalize semitoneCount p (semitones c v) = n at *
  obtain ⟨hlo, hhi⟩ := abs_le.1 hn
  obtain ⟨e, he, r, hr, hrot, hsel⟩ := exists_select_eq_i2f (p := p) hok hint n
  obtain ⟨N, hN⟩ : ∃ N, N = 12 * (n / 12) + r := ⟨_, rfl⟩
  have hvalue : reconstruct (n / 12) (i2f r) = fdiv (i2f N) f32Twelve :=
    hN ▸ reconstruct_i2f (by rw [abs_lt]; omega) hr
  have hoct : N / 12 = n / 12 := by omega
  have hpc : N % 12 = r := by omega
  rw [hsel, hvalue] at hq
  subst hq
  obtain ⟨hdom', hf2i⟩ := semitones_fdiv_twelve c (n := N) (by rw [abs_le]; omega)
  have hcount : semitoneCount p (semitones c (fdiv (i2f N) f32Twelve)) = N := by
    rw [semitoneCount, hf2i, add_assoc]
    exact add_eq_left.2 hroot
  rw [quantize_of_inDomain c p S hdom', hcount, select_of_rotated_eq hok hint he (hpc ▸ hrot), hoct, hpc, hvalue]

end Sys2Proof.Machine
end

section
/-! PROOFS. The ByteBeat bank (R120 to R138): the output stage is exact, and each row answers the sample of its byte. -/

namespace Sys2Proof.Machine

variable {w : ℕ}

/-! ## Exact results -/

/-- Rounding does not change a number that a sample stands for. -/
theorem IsRounded.valueOf_eq {r f : F32} {y : ℚ} (h : IsRounded r y) (hf : isFinite f = true) (hy : valueOf f = y) :
    valueOf r = y := by
  have hdist := h.2.1 f hf
  rw [hy, sub_self, abs_zero, abs_nonpos_iff] at hdist
  exact sub_eq_zero.1 hdist

/-- A number of at most 24 bits does not overflow, wherever its point stands. -/
theorem abs_div_two_pow_lt {n : ℤ} (hn : |n| < 2 ^ 24) (k : ℕ) : |(n / 2 ^ k : ℚ)| < overflowBound := by
  have hlt : |(n : ℚ)| < 2 ^ 24 := by exact_mod_cast hn
  rw [abs_div, abs_of_pos (by positivity : (0 : ℚ) < 2 ^ k)]
  exact (div_le_self (abs_nonneg _) (one_le_pow₀ one_le_two)).trans_lt (hlt.trans (by norm_num [overflowBound]))

/-- A number of at most 24 bits, with at most 149 of them after the point, has a sample. -/
theorem exists_valueOf_eq_div_two_pow {n : ℤ} (hn : |n| < 2 ^ 24) {k : ℕ} (hk : k ≤ 149) :
    ∃ f : F32, isFinite f = true ∧ valueOf f = n / 2 ^ k := by
  have hscale : (2 : ℚ) ^ 149 = 2 ^ (149 - k) * 2 ^ k := by rw [← pow_add, Nat.sub_add_cancel hk]
  have hsign : applySign (decide (n < 0)) (n.natAbs * 2 ^ (149 - k)) = n * (2 ^ (149 - k) : ℕ) := by
    rw [applySign_mul_nat, applySign_natAbs]
  have hround := isRounded_roundUnits (neg := decide (n < 0)) (num := n.natAbs * 2 ^ (149 - k)) one_pos
    (by rw [hsign, hscale]; push_cast; field_simp) (abs_div_two_pow_lt hn k)
  have hlt : n.natAbs < 2 ^ 24 := by
    rw [Int.abs_eq_natAbs] at hn
    exact_mod_cast hn
  have hunits := magUnits_roundMag_of_dvd (isFinite_roundUnits.1 hround.1)
    ((pow_dvd_pow 2 (quantumExp_le_of_lt hlt (149 - k))).trans (Dvd.intro_left _ rfl))
  refine ⟨_, hround.1, ?_⟩
  rw [valueOf, sunits_eq_applySign, signBit_roundUnits, units_roundUnits, hunits, hsign, hscale]
  push_cast
  field_simp

/-- So such a number is not changed by rounding. -/
theorem IsRounded.valueOf_eq_div_two_pow {r : F32} {n : ℤ} {k : ℕ} (h : IsRounded r (n / 2 ^ k)) (hn : |n| < 2 ^ 24)
    (hk : k ≤ 149) : valueOf r = n / 2 ^ k := by
  obtain ⟨f, hf, hval⟩ := exists_valueOf_eq_div_two_pow hn hk
  exact h.valueOf_eq hf hval

/-! ## The output stage (R121) -/

theorem valueOf_oneTwentyEight : valueOf f32OneTwentyEight = 128 := valueOf_of_sunits (n := 128) (by decide)

theorem valueOf_one : valueOf f32One = 1 := valueOf_of_sunits (n := 1) (by decide)

/-- The division of the output stage is exact: it moves the byte's point by 7 places. -/
theorem fdiv_oneTwentyEight_exact (b : Byte) :
    isFinite (fdiv (i2f b.toNat) f32OneTwentyEight) = true ∧ valueOf (fdiv (i2f b.toNat) f32OneTwentyEight) = b.toNat / 128 := by
  have hb : |(b.toNat : ℤ)| < 2 ^ 24 := by
    rw [Nat.abs_cast]
    omega
  have hexact := intExact_of_lt hb
  have hquot : valueOf (i2f b.toNat) / valueOf f32OneTwentyEight = (b.toNat : ℤ) / 2 ^ 7 := by
    rw [valueOf_i2f hexact, valueOf_oneTwentyEight]
    norm_num
  have hround := isRounded_fdiv hexact.1 (by decide) (by rw [valueOf_oneTwentyEight]; norm_num)
    (hquot ▸ abs_div_two_pow_lt hb 7)
  rw [hquot] at hround
  refine ⟨hround.1, ?_⟩
  rw [hround.valueOf_eq_div_two_pow hb (by norm_num)]
  norm_num

/-- So is the difference: it has at most 8 bits, 7 of them after the point. -/
theorem byteSample_exact (b : Byte) : isFinite (byteSample b) = true ∧ valueOf (byteSample b) = b.toNat / 128 - 1 := by
  obtain ⟨hfin, hval⟩ := fdiv_oneTwentyEight_exact b
  have hb : |(b.toNat - 128 : ℤ)| < 2 ^ 24 := by
    rw [abs_lt]
    omega
  have hdiff : (b.toNat / 128 - 1 : ℚ) = (b.toNat - 128 : ℤ) / 2 ^ 7 := by
    push_cast
    ring
  have hround := isRounded_fsub (b := f32One) hfin (by decide)
    (by rw [hval, valueOf_one, hdiff]; exact abs_div_two_pow_lt hb 7)
  rw [hval, valueOf_one, hdiff] at hround
  rw [hdiff]
  exact ⟨hround.1, hround.valueOf_eq_div_two_pow hb (by norm_num)⟩

/-- Settles O32: the quotient and the difference have at most 8 bits, so neither is rounded. -/
theorem outputStageIsExact : Obligations.OutputStageIsExact := ⟨byteSample_exact, by decide⟩

/-! ## The rows of the bank (R122 to R137) -/

/-- A row that runs equation `n` answers the exact sample of its byte and changes nothing else. -/
theorem exists_raw_of_runEquation {i : Instr} {n : Fin 16} (h : ∀ s, exec i s = runEquation device n s) (s : State) :
    ∃ r, exec i s = .next { s with loc := { s.loc with raw := r } } ∧ isFinite r = true ∧
      valueOf r = ((equation device n s.t (lowByte s.params.bbP0) (lowByte s.params.bbP1)
        (lowByte s.params.bbP2)).toNat : ℚ) / 128 - 1 :=
  ⟨_, h s, byteSample_exact _⟩

theorem equation_of_ne_zero (c : Config w) {n : Fin 16} (hn : n ≠ 0) (t : BitVec w) (p0 p1 p2 : Byte) :
    equation c n t p0 p1 p2 = c.bbEq n t p0 p1 p2 := if_neg hn

/-- A row that runs an equation other than 0 answers by the open formula of that number. -/
theorem equationAnswers_of_runEquation {i : Instr} {n : Fin 16} (hn : n ≠ 0) (h : ∀ s, exec i s = runEquation device n s) :
    EquationAnswers i n := by
  intro s
  have hanswer := exists_raw_of_runEquation h s
  rwa [equation_of_ne_zero device hn] at hanswer

/-- The formula of equation 0 on the two low bytes of the counter. -/
theorem hope_toNat_bytes (hw : 16 ≤ w) (t : BitVec w) :
    (hope t).toNat = t.toNat % 256 * (t.toNat / 256 % 256) % 256 := by
  have hlow : t.toNat % 2 ^ 16 % 256 = t.toNat % 256 % 256 := by omega
  have hhigh : t.toNat % 2 ^ 16 / 2 ^ 8 = t.toNat / 256 % 256 := by omega
  rw [hope_toNat hw, hhigh]
  exact Nat.ModEq.mul_right _ hlow

/-- Settles O33: the row runs equation 0, whose byte is a product of the two low bytes of the counter at every width. -/
theorem bbEq0AnswersHopeOfTheLow16Bits : Obligations.BbEq0AnswersHopeOfTheLow16Bits := by
  refine ⟨fun s => ?_, fun _ t hw => hope_toNat_bytes hw t⟩
  rw [← hope_toNat_bytes (by decide) s.t]
  exact exists_raw_of_runEquation (i := .bbEq0) (n := 0) (fun _ => rfl) s

/-- Settles O34: each of the rows runs the equation of its number. -/
theorem bbEq1To8AnswerTheirOpenFormula : Obligations.BbEq1To8AnswerTheirOpenFormula := by
  refine ⟨?_, ?_, ?_, ?_, ?_, ?_, ?_, ?_⟩ <;> exact equationAnswers_of_runEquation (by decide) fun _ => rfl

/-- Settles O35: each of the rows runs the equation of its number. -/
theorem bbEq9To15AnswerTheirOpenFormula : Obligations.BbEq9To15AnswerTheirOpenFormula := by
  refine ⟨?_, ?_, ?_, ?_, ?_, ?_, ?_⟩ <;> exact equationAnswers_of_runEquation (by decide) fun _ => rfl

/-! ## Outside the bank (R138, R186) -/

theorem byteBeat_outside (c : Config w) {s : State.At w} (h : sext s.params.bbEq < 0 ∨ 16 ≤ sext s.params.bbEq) :
    byteBeat c s = runOutOfRange s := dif_neg (by omega)

theorem srcBb_of_advanceFirst {c : Config w} (h : c.advanceFirst = true) (s : State.At w) :
    srcBb c s = byteBeat c (advanceTime (seqReset s)) := if_pos h

/-- Settles O36: SRC.BB has advanced the counter when it finds no equation at the index. -/
theorem outOfRangeEquationAnswersZero : Obligations.OutOfRangeEquationAnswersZero := fun s =>
  ⟨rfl, fun hout => (srcBb_of_advanceFirst (c := device) rfl s).trans (byteBeat_outside device hout)⟩

end Sys2Proof.Machine
end

section
/-! PROOFS. The rows of the stepper (R141 to R147), and the rows a generator selects (R86, R87, R148, R186). -/

namespace Sys2Proof.Machine

variable {w : ℕ}

/-! ## Cursor and direction -/

/-- Cursor and direction are replaced, and nothing else (`seqLoop_eq`, `seqPend_eq`, `startState_eq`). -/
def setStepper (s : State.At w) (y : Int × Bool) : State.At w := { s with cur := BitVec.ofInt 32 y.1, dir := y.2 }

/-- What fits is what `CUR` then holds. -/
theorem seqCursor_setStepper (s : State.At w) {y : Int × Bool} (h : CurRange y.1) : seqCursor (setStepper s y) = y.1 :=
  seqCursor_setSeqCursor s (by omega) (by omega)

/-- Cursor and direction after SEQ.LOOP from cursor `x` (R143, R151). -/
def loopStep (c : Config w) (p : Params) (x : Int) : Int × Bool :=
  (loopWrap c (x + sext p.seqStride) (sext p.seqLen), false)

/-- Cursor and direction after SEQ.PEND from cursor `x` and direction `d` (R144). -/
def pendStep (p : Params) (x : Int) (d : Bool) : Int × Bool :=
  (x + sext p.seqStride * direction (pendDir x (sext p.seqLen) d), pendDir x (sext p.seqLen) d)

theorem seqLoop_eq (c : Config w) (s : State.At w) :
    seqLoop c s = .next (setStepper s (loopStep c s.params (seqCursor s))) := rfl

theorem seqPend_eq (s : State.At w) : seqPend s = setStepper s (pendStep s.params (seqCursor s) s.dir) := rfl

/-- A wrap bounds any sum by the length, so SEQ.LOOP enters the range of R56 from every cursor. -/
theorem loopStep_range (c : Config w) (p : Params) (x : Int) : CurRange (loopStep c p x).1 := by
  have hlen := sext_range p.seqLen
  simp only [loopStep, loopWrap]
  split
  · unfold wrapToZero
    split_ifs <;> constructor <;> omega
  · unfold wrapModulo
    split
    · have hmod := emod_range (x + sext p.seqStride) (b := sext p.seqLen) (by omega)
      constructor <;> omega
    · decide

theorem loopStep_of_le (p : Params) {x : Int} (h : sext p.seqLen ≤ x + sext p.seqStride) :
    (loopStep device p x).1 = 0 := if_pos h

theorem loopStep_of_neg (p : Params) {x : Int} (hlt : x + sext p.seqStride < sext p.seqLen) (h : x + sext p.seqStride < 0) :
    (loopStep device p x).1 = sext p.seqLen - 1 := (if_neg (not_le.2 hlt)).trans (if_pos h)

theorem loopStep_of_mem (p : Params) {x : Int} (hlt : x + sext p.seqStride < sext p.seqLen) (h : 0 ≤ x + sext p.seqStride) :
    (loopStep device p x).1 = x + sext p.seqStride := (if_neg (not_le.2 hlt)).trans (if_neg (not_lt.2 h))

/-- Settles O38: a wrap keeps the new cursor within 32 bits, so `CUR` holds the one R143 gives. -/
theorem seqLoopWrapsToZero : Obligations.SeqLoopWrapsToZero := by
  intro s _ _
  have hcur := seqCursor_setStepper s (loopStep_range device s.params (seqCursor s))
  exact ⟨_, seqLoop_eq device s, rfl, fun h => hcur.trans (loopStep_of_le _ h),
    fun hlt h => hcur.trans (loopStep_of_neg _ hlt h), fun hlt h => hcur.trans (loopStep_of_mem _ hlt h), rfl⟩

theorem pendDir_of_nonpos {x : Int} (h : x ≤ 0) (len : Int) (d : Bool) : pendDir x len d = false := if_pos h

theorem pendDir_of_top {x len : Int} (h0 : 0 < x) (h : len - 1 ≤ x) (d : Bool) : pendDir x len d = true :=
  (if_neg (not_le.2 h0)).trans (if_pos h)

theorem pendDir_of_inside {x len : Int} (h0 : 0 < x) (h : x < len - 1) (d : Bool) : pendDir x len d = d :=
  (if_neg (not_le.2 h0)).trans (if_neg (not_le.2 h))

theorem mul_direction_range (p : ParamWord) (d : Bool) : -32768 ≤ sext p * direction d ∧ sext p * direction d ≤ 32768 := by
  have hstride := sext_range p
  unfold direction
  split <;> constructor <;> omega

/-- Settles O39: the sum of a cursor in the range of R56 and a signed stride fits 32 bits. -/
theorem seqPendFlipsThenAdvances : Obligations.SeqPendFlipsThenAdvances := by
  intro s hlo hhi
  have hstride := mul_direction_range s.params.seqStride (pendDir (seqCursor s) (sext s.params.seqLen) s.dir)
  have hrange : CurRange (seqCursor s) := ⟨hlo, hhi⟩
  have hcur : seqCursor (seqPend s) = (pendStep s.params (seqCursor s) s.dir).1 :=
    seqCursor_setSeqCursor _ (by omega) (by omega)
  exact ⟨_, congrArg Host.Outcome.next (seqPend_eq s), fun h => pendDir_of_nonpos h _ _, fun h0 h => pendDir_of_top h0 h _,
    fun h0 h => pendDir_of_inside h0 h _, hcur, rfl⟩

/-! ## Reset, read and scale -/

/-- Settles O9: both rows are one record update. -/
theorem seqResetAndOutAnswer : Obligations.SeqResetAndOutAnswer := fun _ => ⟨rfl, rfl⟩

/-- The table value at cursor `x` (R145, R146, `seqRead_eq`). -/
def tableValue (c : Config w) (p : Params) (x : Int) : Int :=
  c.seqRom (seqTable p) (clampIndex (sext p.seqStart + x) 128 (by decide))

/-- The table value is handed over, and nothing else changes (`seqRead_eq`). -/
def setTv (s : State.At w) (tv : Int) : State.At w := { s with loc := { s.loc with tv := tv } }

theorem seqRead_eq (c : Config w) (s : State.At w) :
    seqRead c s = .next (setTv s (tableValue c s.params (seqCursor s))) := rfl

theorem clampIndex_eq_max_min (x : Int) (n : ℕ) (h : 0 < n) : ((clampIndex x n h).val : Int) = max 0 (min ((n : Int) - 1) x) := by
  rw [clampIndex_val, clamp_eq_max_min _ (by omega)]

/-- Settles O40: table and address are the clamped indices of SEQ.READ. -/
theorem seqReadReadsTheClampedAddress : Obligations.SeqReadReadsTheClampedAddress := fun s =>
  ⟨seqTable s.params, seqAddress s, rfl, clampIndex_eq_max_min _ _ _, clampIndex_eq_max_min _ _ _⟩

/-- An integer of at most 24 bits, divided by 12, is rounded once. -/
theorem isRounded_fdiv_twelve {n : ℤ} (h : |n| < 2 ^ 24) : IsRounded (fdiv (i2f n) f32Twelve) (n / 12) := by
  have hexact := intExact_of_lt h
  have hn : |(n : ℚ)| < 2 ^ 24 := by exact_mod_cast h
  have hbound : |(n : ℚ) / 12| < overflowBound := by
    rw [abs_div, abs_of_pos (by norm_num : (0 : ℚ) < 12)]
    exact (div_le_self (abs_nonneg _) (by norm_num)).trans_lt (hn.trans (by norm_num [overflowBound]))
  have hround := isRounded_fdiv hexact.1 isFinite_twelve (by rw [valueOf_twelve]; norm_num)
    (by rwa [valueOf_i2f hexact, valueOf_twelve])
  rwa [valueOf_i2f hexact, valueOf_twelve] at hround

theorem seqScale_of_illegal (c : Config w) {s : State.At w} (h : sext s.params.seqMod ≤ 0 ∨ s.loc.tv < 0) :
    seqScale c s = .next (drawRaw c s) := by
  rw [seqScale, if_neg (by omega)]

/-- Settles O41: a remainder modulo a 16-bit number has a sample of its own, so only the quotient is rounded. -/
theorem seqScaleReducesAndDividesByTwelve : Obligations.SeqScaleReducesAndDividesByTwelve := by
  refine fun s => ⟨fun hm htv => ?_, seqScale_of_illegal device⟩
  have hscale := seqScale_of_legal device hm htv
  have hmod := emod_range s.loc.tv hm
  rw [emod_eq] at hscale hmod
  have hlt : |s.loc.tv % s.params.seqMod.toInt| < 2 ^ 24 := by
    have hsext := sext_range s.params.seqMod
    rw [abs_lt]
    unfold sext at hsext
    omega
  exact ⟨_, hscale, rfl, isRounded_fdiv_twelve hlt⟩

/-! ## The selected rows -/

/-- A row of the bank runs the equation of its number (R122 to R137). -/
theorem exec_equationRow (i : Fin 16) (s : State) : exec (equationRow i.val) s = runEquation device i s := by
  fin_cases i <;> rfl

/-- Outside the bank the row is BB.OOR (R138). -/
theorem equationRow_outside {i : Int} (h : i < 0 ∨ 16 ≤ i) : equationRow i = .bbOor := by
  unfold equationRow
  split
  on_goal 17 => rfl
  all_goals omega

/-- `BYTEBEAT` is the row `P.BBEQ` selects (R86). -/
theorem exec_decodeBbeq (s : State) : exec (decodeBbeq s.params.bbEq) s = byteBeat device s := by
  rw [decodeBbeq, byteBeat]
  split
  · next h =>
    rw [← exec_equationRow, Int.toNat_of_nonneg h.1]
    rfl
  · next h =>
    unfold sext at h
    rw [equationRow_outside (by omega)]
    rfl

/-- The advance of the stepper is the row `P.SEQDIR` selects (R87). -/
theorem exec_decodeSeqdir (s : State) : exec (decodeSeqdir s.params.seqDir) s = seqAdvance device s := by
  unfold decodeSeqdir seqAdvance sext
  split_ifs <;> rfl

/-! ## The start of SRC.SEQ -/

/-- What SRC.SEQ starts from: the state, reset when the cursor is outside the window (R142, R148). -/
def startState (s : State.At w) : State.At w := if inWindow s then s else seqReset s

@[simp] theorem startState_params (s : State.At w) : (startState s).params = s.params := by
  unfold startState
  split <;> rfl

theorem next_startState (s : State) :
    (if 0 ≤ s.cur.toInt ∧ s.cur.toInt < s.params.seqLen.toInt then .next s else exec .seqReset s) = .next (startState s) := by
  simp only [startState, inWindow, decide_eq_true_eq, apply_ite Host.Outcome.next]
  rfl

/-- Settles O16: the selectors are parameters, and no row before the selected one changes a parameter. -/
theorem sourcesRunTheirSelectedRows : Obligations.SourcesRunTheirSelectedRows := by
  intro s
  constructor
  · exact (srcBb_of_advanceFirst (c := device) rfl s).trans (exec_decodeBbeq (advanceTime (seqReset s))).symm
  · rw [next_startState, andThen_next, ← startState_params, exec_decodeSeqdir]
    rfl

end Sys2Proof.Machine
end

section
/-! PROOFS. The stepper after SRC.SEQ and after its TICK, and the table value read, in both orders (R148, R149, R153). -/

namespace Sys2Proof.Machine

variable {w : ℕ}

/-! ## The stepper after SRC.SEQ -/

/-- Cursor and direction after the advance from cursor `x` and direction `d` (R87, `seqAdvance_eq_setStepper`). -/
def advanceStep (c : Config w) (p : Params) (x : Int) (d : Bool) : Int × Bool :=
  if sext p.seqDir = 1 then pendStep p x d else loopStep c p x

/-- Cursor and direction after SRC.SEQ (R148, `srcSeq_stepper`). -/
def nextStep (c : Config w) (s : State.At w) : Int × Bool := advanceStep c s.params (ruleStart s).1 (ruleStart s).2

theorem seqAdvance_eq_setStepper (c : Config w) (s : State.At w) :
    seqAdvance c s = .next (setStepper s (advanceStep c s.params (seqCursor s) s.dir)) := by
  unfold seqAdvance advanceStep
  split <;> rfl

theorem ruleStart_range (s : State.At w) : 0 ≤ (ruleStart s).1 ∧ (ruleStart s).1 ≤ 32766 := by
  have hlen := sext_range s.params.seqLen
  unfold ruleStart
  split
  · next h =>
    unfold sext at hlen
    omega
  · decide

/-- One advance from where SRC.SEQ starts stays in the range of R56. -/
theorem nextStep_range (c : Config w) (s : State.At w) : CurRange (nextStep c s).1 := by
  unfold nextStep advanceStep
  split
  · have hstart := ruleStart_range s
    have hstride := mul_direction_range s.params.seqStride (pendStep s.params (ruleStart s).1 (ruleStart s).2).2
    simp only [pendStep] at *
    constructor <;> omega
  · exact loopStep_range c _ _

theorem startState_eq (s : State.At w) : startState s = setStepper s (ruleStart s) := by
  unfold startState ruleStart inWindow seqCursor sext
  by_cases h : 0 ≤ s.cur.toInt ∧ s.cur.toInt < s.params.seqLen.toInt
  · rw [if_pos h, if_pos (decide_eq_true h), setStepper, BitVec.ofInt_toInt]
  · rw [if_neg h, if_neg (by simpa using h)]
    rfl

theorem seqCursor_setStepper_start (s : State.At w) : seqCursor (setStepper s (ruleStart s)) = (ruleStart s).1 := by
  have hstart := ruleStart_range s
  exact seqCursor_setStepper s (by constructor <;> omega)

/-- The advance looks at the stepper and the parameters only. -/
theorem seqAdvance_of_start (c : Config w) {s s0 : State.At w} (hcur : seqCursor s0 = (ruleStart s).1)
    (hdir : s0.dir = (ruleStart s).2) (hparams : s0.params = s.params) :
    seqAdvance c s0 = .next (setStepper s0 (nextStep c s)) := by
  rw [seqAdvance_eq_setStepper, hcur, hdir, hparams, nextStep]

/-! ## Both orders of SRC.SEQ -/

/-- The order R148 gives: the table is read at the new cursor. -/
theorem srcSeq_of_advanceFirst {c : Config w} (h : c.advanceFirst = true) (s : State.At w) :
    srcSeq c s = seqScale c (setTv (setStepper s (nextStep c s)) (tableValue c s.params (nextStep c s).1)) := by
  have horder : srcSeq c s = andThen (andThen (seqAdvance c (startState s)) (seqRead c)) (seqScale c) := if_pos h
  rw [horder, startState_eq, seqAdvance_of_start c (seqCursor_setStepper_start s) rfl rfl, andThen_next, seqRead_eq,
    andThen_next, seqCursor_setStepper _ (nextStep_range c s)]
  rfl

/-- The order of R153: the table is read at the cursor after the reset check. -/
theorem srcSeq_of_evaluateFirst {c : Config w} (h : c.advanceFirst = false) (s : State.At w) :
    srcSeq c s = andThen (seqScale c (setTv (setStepper s (ruleStart s)) (tableValue c s.params (ruleStart s).1)))
      (seqAdvance c) := by
  have horder : srcSeq c s = andThen (andThen (seqRead c (startState s)) (seqScale c)) (seqAdvance c) :=
    if_neg (ne_true_of_eq_false h)
  rw [horder, startState_eq, seqRead_eq, andThen_next, seqCursor_setStepper_start]
  rfl

/-- SEQ.SCALE keeps the table value. -/
theorem seqScale_raw (c : Config w) (s : State.At w) :
    ∃ raw n, seqScale c s = .next { s with loc := { s.loc with raw := raw }, draws := n } := by
  obtain ⟨raw, h⟩ | h := seqScale_eq c s
  · exact ⟨_, _, h⟩
  · exact ⟨_, _, h⟩

/-- The cursor at which SRC.SEQ reads its table (R148, R153). -/
def readCursor (c : Config w) (s : State.At w) : Int := if c.advanceFirst then (nextStep c s).1 else (ruleStart s).1

/-- Both orders leave the same stepper; they differ in the cursor at which the table is read. -/
theorem srcSeq_stepper (c : Config w) (s : State.At w) : ∃ raw n, srcSeq c s = .next { setStepper s (nextStep c s) with
    loc := { s.loc with tv := tableValue c s.params (readCursor c s), raw := raw }, draws := n } := by
  cases h : c.advanceFirst with
  | true =>
    rw [srcSeq_of_advanceFirst h, readCursor, if_pos h]
    exact seqScale_raw c _
  | false =>
    obtain ⟨raw, n, hscale⟩ := seqScale_raw c (setTv (setStepper s (ruleStart s)) (tableValue c s.params (ruleStart s).1))
    rw [srcSeq_of_evaluateFirst h, hscale, andThen_next, readCursor, if_neg (ne_true_of_eq_false h)]
    exact ⟨raw, n, seqAdvance_of_start c (seqCursor_setStepper_start s) rfl rfl⟩

/-- Settles O45: both orders leave the same stepper, and the bank leaves the counter to the advance. -/
theorem evaluateFirstReadsBeforeTheAdvance : Obligations.EvaluateFirstReadsBeforeTheAdvance := by
  intro w c s h
  constructor
  · obtain ⟨raw, hbank⟩ := byteBeat_eq c (seqReset s)
    refine ⟨_, _, ?_, hbank, rfl⟩
    rw [srcBb, h, if_neg Bool.false_ne_true, hbank]
    rfl
  · obtain ⟨raw, n, ht⟩ := srcSeq_stepper c s
    obtain ⟨raw', n', hu⟩ := srcSeq_stepper { c with advanceFirst := true } s
    rw [readCursor, if_neg (ne_true_of_eq_false h)] at ht
    exact ⟨_, _, ht, hu, rfl, rfl, rfl⟩

/-- Settles O59: no entry of the machine's tables is negative, so a legal modulus is all that SEQ.SCALE asks for. -/
theorem legalModulusLeavesNothingFree : Obligations.LegalModulusLeavesNothingFree := by
  intro s hm
  obtain ⟨hnonneg, hlt⟩ := device_seqRomOk (seqTable s.params)
    (clampIndex (sext s.params.seqStart + (nextStep device s).1) 128 (by decide))
  refine ⟨_, (srcSeq_of_advanceFirst (c := device) rfl s).trans (seqScale_of_legal device hm hnonneg), rfl, hnonneg, hlt, ?_⟩
  rw [emod_eq]
  rfl

/-! ## A TICK of the sequence source -/

theorem source_of_seq (c : Config w) {s : State.At w} (h : s.params.src = 2) : source c s = srcSeq c s := by
  rw [source, h]
  rfl

@[simp] theorem written_dir (s : State.At w) : (written s).dir = s.dir := by rw [written_eq]

/-- Phase 2 advances the stepper, and no other phase of a TICK touches it. -/
theorem tick_stepper (c : Config w) (cv clk : F32) {s : State.At w} (hsrc : s.params.src = 2) :
    ∃ t, tick c cv clk s = .next t ∧ t.params = s.params ∧ seqCursor t = (nextStep c s).1 ∧ t.dir = (nextStep c s).2 := by
  obtain ⟨s1, out, n, hsource, htick⟩ := tick_eq c cv clk s
  obtain ⟨raw, m, hseq⟩ := srcSeq_stepper c (detectEdge (beginTick cv clk s))
  rw [source_of_seq c (s := detectEdge (beginTick cv clk s)) hsrc, hseq] at hsource
  obtain rfl := Host.Outcome.next.inj hsource
  refine ⟨_, htick, written_params _, ?_, written_dir _⟩
  rw [seqCursor, written_cur]
  exact seqCursor_setStepper s (nextStep_range c s)

theorem sext_eq_one {p : ParamWord} : sext p = 1 ↔ p = 1 := BitVec.toInt_inj (y := 1#16)

theorem nextStep_pend (c : Config w) {s : State.At w} (h : s.params.seqDir = 1) :
    nextStep c s = pendStep s.params (ruleStart s).1 (ruleStart s).2 := if_pos (sext_eq_one.2 h)

theorem nextStep_loop (c : Config w) {s : State.At w} (h : s.params.seqDir ≠ 1) :
    nextStep c s = loopStep c s.params (ruleStart s).1 := if_neg (mt sext_eq_one.1 h)

theorem ruleStart_of_mem {s : State.At w} (h0 : 0 ≤ seqCursor s) (hlt : seqCursor s < sext s.params.seqLen) :
    ruleStart s = (seqCursor s, s.dir) := if_pos ⟨h0, hlt⟩

/-- No cursor lies in an empty window (R149). -/
theorem ruleStart_of_empty {s : State.At w} (h : s.params.seqLen.toInt ≤ 0) : ruleStart s = (0, false) :=
  if_neg (by omega)

/-- Settles O44: the step from cursor 0 and direction +1, in either mode. -/
theorem emptyWindowRestartsEveryTick : Obligations.EmptyWindowRestartsEveryTick := by
  intro s t cv clk hsrc hlen h
  obtain ⟨t', ht', -, hcur, hdir⟩ := tick_stepper device cv clk hsrc
  obtain rfl := Host.Outcome.next.inj (h.symm.trans ht')
  have hstart := ruleStart_of_empty hlen
  constructor
  · intro hloop
    rw [nextStep_loop _ hloop, hstart] at hcur hdir
    refine ⟨hdir, fun hle => hcur.trans (loopStep_of_le _ ?_), fun hlt => hcur.trans (loopStep_of_neg _ ?_ ?_)⟩
    all_goals unfold sext; omega
  · intro hpend
    rw [nextStep_pend _ hpend, hstart, pendStep, pendDir_of_nonpos le_rfl] at hcur hdir
    refine ⟨hdir, hcur.trans ?_⟩
    simp [direction, sext]

end Sys2Proof.Machine
end

section
/-! PROOFS. The walks of the stepper in closed form (R151, R152): a pendulum over any run of TICKs, a loop under both wraps. -/

namespace Sys2Proof.Machine

variable {w : ℕ}

/-- A remainder goes up by one, or back to 0 when that would be the modulus. -/
theorem succ_mod_eq_ite (n : ℕ) {k : ℕ} (hk : 0 < k) : (n + 1) % k = if n % k + 1 = k then 0 else n % k + 1 := by
  have hlt := Nat.mod_lt n hk
  rw [← Nat.mod_add_mod]
  split
  · next h => rw [h, Nat.mod_self]
  · exact Nat.mod_eq_of_lt (by omega)

/-! ## The pendulum -/

/-- The direction of a pendulum of window length `len` and stride 1 after `n` advances from 0 (R152). -/
def pendulumDir (len n : ℕ) : Bool := decide (len - 1 ≤ (n - 1) % (2 * (len - 1)))

theorem pendulumCursor_range {len : ℕ} (hlen : 2 ≤ len) (n : ℕ) : pendulumCursor len n < len := by
  have hlt := Nat.mod_lt n (y := 2 * (len - 1)) (by omega)
  unfold pendulumCursor
  split <;> omega

/-- The flip tests turn the pendulum at the top and at the bottom, and leave it in between. -/
theorem pendDir_pendulum {len : ℕ} (hlen : 2 ≤ len) (n : ℕ) :
    pendDir (pendulumCursor len n) len (pendulumDir len n) = pendulumDir len (n + 1) := by
  have hpred : 0 < n % (2 * (len - 1)) → (n - 1) % (2 * (len - 1)) = n % (2 * (len - 1)) - 1 := by
    cases n with
    | zero => simp
    | succ n =>
      rw [Nat.add_sub_cancel, succ_mod_eq_ite n (k := 2 * (len - 1)) (by omega)]
      split <;> omega
  have hlt := Nat.mod_lt n (y := 2 * (len - 1)) (by omega)
  simp only [pendulumCursor, pendulumDir, Nat.add_sub_cancel]
  generalize n % (2 * (len - 1)) = k at *
  rcases Nat.eq_zero_or_pos k with rfl | hpos
  · rw [pendDir_of_nonpos (by simp)]
    exact (decide_eq_false (by omega)).symm
  · rw [hpred hpos]
    by_cases htop : k = len - 1
    · rw [pendDir_of_top (by split <;> omega) (by split <;> omega)]
      exact (decide_eq_true (by omega)).symm
    · rw [pendDir_of_inside (by split <;> omega) (by split <;> omega), decide_eq_decide]
      omega

theorem pendulumCursor_succ {len : ℕ} (hlen : 2 ≤ len) (n : ℕ) :
    (pendulumCursor len (n + 1) : Int) = pendulumCursor len n + direction (pendulumDir len (n + 1)) := by
  have hlt := Nat.mod_lt n (y := 2 * (len - 1)) (by omega)
  simp only [pendulumCursor, pendulumDir, Nat.add_sub_cancel, direction, succ_mod_eq_ite n (k := 2 * (len - 1)) (by omega),
    decide_eq_true_eq]
  split_ifs <;> omega

/-- The parameters of a pendulum of window length `len` and stride 1. -/
structure PendulumParams (len : ℕ) (p : Params) : Prop where
  src : p.src = 2
  mode : p.seqDir = 1
  stride : sext p.seqStride = 1
  length : sext p.seqLen = len
  two_le : 2 ≤ len

/-- Such a pendulum, `n` advances after cursor 0 and direction +1. -/
structure Swings (len n : ℕ) (s : State) : Prop where
  params : PendulumParams len s.params
  cursor : seqCursor s = pendulumCursor len n
  dir : s.dir = pendulumDir len n

theorem nextStep_of_swings {len n : ℕ} {s : State} (h : Swings len n s) :
    nextStep device s = (↑(pendulumCursor len (n + 1)), pendulumDir len (n + 1)) := by
  obtain ⟨hparams, hcur, hdir⟩ := h
  have hrange := pendulumCursor_range hparams.two_le n
  have hstart : ruleStart s = (↑(pendulumCursor len n), pendulumDir len n) := by
    rw [ruleStart_of_mem (by omega) (by rw [hparams.length]; omega), hcur, hdir]
  rw [nextStep_pend _ hparams.mode, hstart, pendStep, hparams.stride, hparams.length, pendDir_pendulum hparams.two_le, one_mul,
    pendulumCursor_succ hparams.two_le]

/-- Every TICK is one advance of the pendulum. -/
theorem tick_of_swings {len n : ℕ} {s : State} (h : Swings len n s) (cv clk : F32) :
    ∃ t, exec (.tick cv clk) s = .next t ∧ Swings len (n + 1) t := by
  obtain ⟨t, ht, hparams, hcur, hdir⟩ := tick_stepper device cv clk h.params.src
  rw [nextStep_of_swings h] at hcur hdir
  exact ⟨t, ht, hparams ▸ h.params, hcur, hdir⟩

theorem runTicks_of_swings {len n : ℕ} {s : State} (h : Swings len n s) (samples : List (F32 × F32)) :
    ∃ t, runTicks s samples = .next t ∧ Swings len (n + samples.length) t := by
  induction samples generalizing n s with
  | nil => exact ⟨s, rfl, h⟩
  | cons sample rest ih =>
    obtain ⟨s1, htick, h1⟩ := tick_of_swings h sample.1 sample.2
    obtain ⟨t, hrun, ht⟩ := ih h1
    refine ⟨t, by rw [runTicks, htick, andThen_next, hrun], ?_⟩
    rwa [List.length_cons, Nat.add_comm rest.length, ← Nat.add_assoc]

/-- Settles O43: the start is the pendulum after no advance, and every TICK is one advance. -/
theorem pendulumWalksUpAndDownForEver : Obligations.PendulumWalksUpAndDownForEver := by
  intro s len samples hsrc hmode hstride htwo hlength hcur hdir
  have hstart : Swings len 0 s := by
    refine ⟨⟨hsrc, hmode, sext_eq_one.2 hstride, hlength, htwo⟩, ?_, ?_⟩
    · simp [seqCursor, hcur, pendulumCursor]
    · rw [hdir, pendulumDir, Nat.zero_sub, Nat.zero_mod]
      exact (decide_eq_false (by omega)).symm
  obtain ⟨t, hrun, ht⟩ := runTicks_of_swings hstart samples
  rw [Nat.zero_add] at ht
  exact ⟨t, hrun, ht.cursor, fun _ => ht.dir⟩

/-! ## The loop -/

/-- A sequence of cursors that each advance of SEQ.LOOP continues is the walk of the loop. -/
theorem runLoop_of_steps (c : Config w) {s : State.At w} {cursors : ℕ → Int} (h0 : seqCursor s = cursors 0)
    (hstep : ∀ n, (loopStep c s.params (cursors n)).1 = cursors (n + 1)) (n : ℕ) :
    ∃ t, runLoop c s n = .next t ∧ t.params = s.params ∧ seqCursor t = cursors n := by
  induction n with
  | zero => exact ⟨s, rfl, rfl, h0⟩
  | succ n ih =>
    obtain ⟨t, hrun, hparams, hcur⟩ := ih
    refine ⟨setStepper t (loopStep c t.params (seqCursor t)), by rw [runLoop, hrun, andThen_next, seqLoop_eq], hparams, ?_⟩
    rw [seqCursor_setStepper t (loopStep_range c _ _), hparams, hcur, hstep]

theorem loopStep_modulo {c : Config w} (h : c.loopWrap = .modulo) {p : Params} (hlen : 1 ≤ sext p.seqLen) (x : Int) :
    (loopStep c p x).1 = (x + sext p.seqStride) % sext p.seqLen := by
  rw [loopStep, loopWrap, h, ← emod_eq]
  exact if_pos hlen

theorem loopStep_toZero {c : Config w} (h : c.loopWrap = .toZero) (p : Params) (x : Int) :
    (loopStep c p x).1 = wrapToZero (x + sext p.seqStride) (sext p.seqLen) := by
  rw [loopStep, loopWrap, h]

/-- The cursor after `n` advances from 0 under the wrap of R151. -/
def moduloCursor (stride len : Int) (n : ℕ) : Int := n * stride % len

theorem moduloCursor_succ (stride len : Int) (n : ℕ) :
    (moduloCursor stride len n + stride) % len = moduloCursor stride len (n + 1) := by
  rw [moduloCursor, moduloCursor, Int.emod_add_emod, Nat.cast_add_one, add_one_mul]

/-- The cursor after `n` advances from 0 under the wrap of R143, for a stride from 1 to below the length. -/
def toZeroCursor (stride len n : ℕ) : ℕ := stride * (n % ((len + stride - 1) / stride))

/-- The climb is below the length for as long as it takes `ceil(len / stride)` steps, and then jumps to 0. -/
theorem toZeroCursor_succ {stride len : ℕ} (hstride : 0 < stride) (hlen : 0 < len) (n : ℕ) :
    wrapToZero (toZeroCursor stride len n + stride) len = toZeroCursor stride len (n + 1) := by
  have hceil : ∀ j, (len + stride - 1) / stride ≤ j ↔ len ≤ stride * j := fun _ => ceilDiv_le_iff_le_mul hstride
  unfold toZeroCursor
  generalize (len + stride - 1) / stride = k at *
  have hk : 0 < k := by
    have h0 := hceil 0
    omega
  have hlt := Nat.mod_lt n hk
  rw [succ_mod_eq_ite n hk, ← Nat.cast_add, ← Nat.mul_add_one]
  generalize n % k = j at *
  have hreach := hceil (j + 1)
  unfold wrapToZero
  split
  · rw [if_pos (by omega), Nat.mul_zero, Nat.cast_zero]
  · rw [if_neg (by omega), if_neg (by omega)]

/-- Settles O46: each closed form is continued by its wrap. -/
theorem loopWalkUnderBothWraps : Obligations.LoopWalkUnderBothWraps := by
  intro w c s n len hcur hpos hlength
  have h0 : seqCursor s = 0 := congrArg BitVec.toInt hcur
  have hlen : sext s.params.seqLen = len := hlength
  constructor
  · intro hwrap
    obtain ⟨t, hrun, -, ht⟩ := runLoop_of_steps c (s := s) (cursors := moduloCursor (sext s.params.seqStride) len)
      (by simp [h0, moduloCursor])
      (fun n => by rw [loopStep_modulo hwrap (by omega), hlen, moduloCursor_succ]) n
    exact ⟨t, hrun, ht⟩
  · intro stride hwrap hstride hstride_pos hlt
    have hs : sext s.params.seqStride = stride := hstride
    obtain ⟨t, hrun, -, ht⟩ := runLoop_of_steps c (s := s) (cursors := fun n => toZeroCursor stride len n)
      (by simp [h0, toZeroCursor])
      (fun n => by rw [loopStep_toZero hwrap, hs, hlen, toZeroCursor_succ hstride_pos hpos]) n
    exact ⟨t, hrun, ht.trans (by rw [toZeroCursor, Nat.cast_mul])⟩

end Sys2Proof.Machine
end

section
/-! PROOFS. The clock edge over one and two TICKs (R161, R162, R164). -/

namespace Sys2Proof.Machine

variable {w : Nat}

/-! ## Comparisons on every sample that is no NaN, infinities included (R17) -/

theorem sunits_le_iff (x y : F32) : sunits x ≤ sunits y ↔ valueOf x ≤ valueOf y := by
  rw [valueOf, valueOf, div_le_div_iff_of_pos_right (by positivity), Int.cast_le]

theorem fle_eq_true_iff (x y : F32) : fle x y = true ↔ isNaN x = false ∧ isNaN y = false ∧ valueOf x ≤ valueOf y := by
  simp [fle, sunits_le_iff, and_assoc]

theorem flt_eq_true_iff (x y : F32) : flt x y = true ↔ isNaN x = false ∧ isNaN y = false ∧ valueOf x < valueOf y := by
  simp [flt, ← not_le, sunits_le_iff, and_assoc]

/-! ## The edge -/

theorem isNaN_clockThreshold : isNaN clockThreshold = false := by decide

theorem valueOf_clockThreshold : valueOf clockThreshold = 1 := valueOf_one

/-- The edge on the numbers the samples stand for. -/
theorem risingEdge_iff (prev clk : F32) :
    risingEdge prev clk = true ↔ isNaN prev = false ∧ isNaN clk = false ∧ valueOf prev ≤ 1 ∧ 1 < valueOf clk := by
  rw [risingEdge, Bool.and_eq_true, fle_eq_true_iff, flt_eq_true_iff, isNaN_clockThreshold, valueOf_clockThreshold]
  tauto

theorem risingEdge_nan_left {prev : F32} (h : isNaN prev = true) (clk : F32) : risingEdge prev clk = false := by
  rw [risingEdge, fle_nan_left h, Bool.false_and]

theorem risingEdge_nan_right (prev : F32) {clk : F32} (h : isNaN clk = true) : risingEdge prev clk = false := by
  rw [risingEdge, flt_nan_right _ h, Bool.and_false]

/-- A clock that was high already does not rise. -/
theorem risingEdge_of_high {prev : F32} (h : 1 < valueOf prev) (clk : F32) : risingEdge prev clk = false := by
  rw [Bool.eq_false_iff, Ne, risingEdge_iff]
  rintro ⟨-, -, hlow, -⟩
  exact hlow.not_gt h

/-- Settles O17: EDGE is `detectEdge`, and its condition reads on the numbers as `risingEdge_iff` says. -/
theorem edgeIsARiseThroughTheThreshold : Obligations.EdgeIsARiseThroughTheThreshold := fun s =>
  ⟨risingEdge s.prev s.loc.clk, rfl, risingEdge_iff s.prev s.loc.clk⟩

/-! ## TICKs that write nothing -/

theorem tick_keeps_buffer_of_no_edge {c : Config w} {cv clk : F32} {s t : State.At w} (h : tick c cv clk s = .next t)
    (hedge : risingEdge s.prev clk = false) : t.buf = s.buf ∧ t.wc = s.wc :=
  tick_keeps_buffer h (by rw [hedge, Bool.false_and])

theorem holdEngaged_of_ne_zero {p : Params} (h : p.hold ≠ 0) : holdEngaged p = true := by
  rw [holdEngaged, decide_eq_true_eq]
  exact mt (BitVec.toInt_inj (y := 0#16)).1 h

/-- The condition of ASR.WR fails under hold, with an edge and without (R164). -/
theorem no_write_of_hold (edge : Bool) {p : Params} (h : p.hold ≠ 0) : (edge && !holdEngaged p) = false := by
  rw [holdEngaged_of_ne_zero h, Bool.not_true, Bool.and_false]

/-- Settles O18: the NaN makes no edge as the clock sample, nor as the clock memory of the next TICK. -/
theorem naNClockBlindsTwoTicks : Obligations.NaNClockBlindsTwoTicks := by
  intro s t u cv cv' clk clk' hnan h1 h2
  obtain ⟨htbuf, htwc⟩ := tick_keeps_buffer_of_no_edge h1 (risingEdge_nan_right s.prev hnan)
  obtain ⟨hubuf, huwc⟩ := tick_keeps_buffer_of_no_edge h2 (risingEdge_nan_left (by rwa [tick_prev h1]) clk')
  exact ⟨htbuf, htwc, hubuf.trans htbuf, huwc.trans htwc⟩

/-- Settles O19: the clock memory the first TICK leaves is its own high clock sample. -/
theorem highClockGivesNoSecondEdge : Obligations.HighClockGivesNoSecondEdge := by
  intro s t u cv cv' clk clk' _ hhigh h1 h2
  exact tick_keeps_buffer_of_no_edge h2 (risingEdge_of_high (by rwa [tick_prev h1]) clk')

/-- Settles O20: hold stops the write whatever the edge, and no phase after EDGE touches `PREV`. -/
theorem holdSuppressesTheWriteAndUsesUpTheEdge : Obligations.HoldSuppressesTheWriteAndUsesUpTheEdge := by
  intro s t cv clk hhold h
  obtain ⟨hbuf, hwc⟩ := tick_keeps_buffer h (no_write_of_hold _ hhold)
  exact ⟨hbuf, hwc, tick_prev h⟩

end Sys2Proof.Machine
end

section
/-! PROOFS. The rows of the ASR buffer (R163 to R170): the write, the taps, the normalized cursor. -/

namespace Sys2Proof.Machine

variable {w : Nat}

theorem activeLen_eq_max_min (p : Params) : activeLen p = max 4 (min 64 p.bufLen.toInt) := clamp_eq_max_min _ (by decide)

/-! ## ASR.WR -/

theorem written_buf_of_write {s : State.At w} (h : (s.loc.edge && !holdEngaged s.params) = true) :
    (written s).buf = s.buf.write s.wc.toNat s.loc.raw := by
  rw [written, if_pos h, setCursor_buf]

theorem written_of_no_write {s : State.At w} (h : (s.loc.edge && !holdEngaged s.params) = false) : written s = s := by
  rw [written, if_neg (ne_true_of_eq_false h)]

theorem written_read {s : State.At w} (hwrites : (s.loc.edge && !holdEngaged s.params) = true) (hbuf : s.buf.wf = true)
    (a : ℕ) : (written s).buf.read a = if a = s.wc.toNat then s.loc.raw else s.buf.read a := by
  rw [written_buf_of_write hwrites, Memory.read_write hbuf]

/-- Settles O22: ASR.WR answers `written s`, whose fields the lemmas above give. -/
theorem asrWrStoresTheRawSample : Obligations.AsrWrStoresTheRawSample := by
  refine fun s hbuf => ⟨fun hedge hhold => ?_, fun hno => ?_⟩
  · have hwrites : (s.loc.edge && !holdEngaged s.params) = true := by rw [hedge, holdEngaged_of_zero hhold]; rfl
    exact ⟨written s, writeSample_written s, written_read hwrites hbuf, written_buf_wf hbuf,
      by rw [← activeLen_eq_max_min]; exact cursor_written hwrites, written_eq s⟩
  · have hidle : (s.loc.edge && !holdEngaged s.params) = false := by
      rcases hno with hedge | hhold
      · rw [hedge, Bool.false_and]
      · exact no_write_of_hold _ hhold
    exact (writeSample_written s).trans (congrArg _ (written_of_no_write hidle))

/-! ## The taps -/

/-- The tap of stage `k` reads an address of the window, congruent to `P.BUFINDEX * k` behind the newest cell. -/
theorem exists_readTap_eq (k : Stage) (s : State.At w) : ∃ a : ℕ, a < activeLen s.params ∧
    activeLen s.params ∣ (s.wc.toNat : ℤ) - 1 - s.params.bufIndex.toInt * k.num - a ∧
      readTap k s = .next (setTap s k (s.buf.read a)) := by
  obtain ⟨hnonneg, hlt⟩ := tapAddress_range s k
  refine ⟨(tapAddress s k).toNat, ?_, ?_, readTap_eq k s⟩ <;> rw [Int.toNat_of_nonneg hnonneg]
  · exact hlt
  · rw [tapAddress, emod_eq]
    exact Int.dvd_self_sub_emod

/-- Settles O23, for each stage by `exists_readTap_eq`. -/
theorem tapsReadBehindTheCursor : Obligations.TapsReadBehindTheCursor := by
  intro s
  obtain ⟨a1, hlt1, hdvd1, h1⟩ := exists_readTap_eq .k1 s
  obtain ⟨a2, h2⟩ := exists_readTap_eq .k2 s
  obtain ⟨a3, h3⟩ := exists_readTap_eq .k3 s
  obtain ⟨a4, h4⟩ := exists_readTap_eq .k4 s
  rw [show ((Stage.num .k1 : ℕ) : ℤ) = 1 from rfl, mul_one] at hdvd1
  exact ⟨a1, a2, a3, a4, ⟨hlt1, hdvd1, h1⟩, h2, h3, h4⟩

/-- The tap address is the one address of the window in its residue class. -/
theorem tapAddress_of_modEq {k : Stage} {s : State.At w} {a : ℤ} (h0 : 0 ≤ a) (hlt : a < activeLen s.params)
    (h : cursor s - 1 - sext s.params.bufIndex * k.num ≡ a [ZMOD activeLen s.params]) : tapAddress s k = a := by
  rw [tapAddress, emod_eq, h, Int.emod_eq_of_lt h0 hlt]

/-! ## Reading back two writes -/

/-- Phase 3 is handed an edge and the raw sample `x`. -/
def handEdge (x : F32) (s : State.At w) : State.At w := { s with loc := { s.loc with edge := true, raw := x } }

theorem handEdge_writes (x : F32) {s : State.At w} (h : s.params.hold = 0) :
    ((handEdge x s).loc.edge && !holdEngaged (handEdge x s).params) = true := by
  rw [show holdEngaged (handEdge x s).params = false from holdEngaged_of_zero h]
  rfl

/-- The state after two writes with hold not engaged. -/
def writtenTwice (x y : F32) (s : State.At w) : State.At w := written (handEdge y (written (handEdge x s)))

@[simp] theorem writtenTwice_params (x y : F32) (s : State.At w) : (writtenTwice x y s).params = s.params :=
  (written_params _).trans (written_params _)

section
variable {s : State.At w} (x y : F32) (hhold : s.params.hold = 0)
include hhold

/-- Each cell after two writes. -/
theorem writtenTwice_read (hbuf : s.buf.wf = true) (a : ℕ) :
    (writtenTwice x y s).buf.read a =
      if a = (written (handEdge x s)).wc.toNat then y else if a = s.wc.toNat then x else s.buf.read a := by
  have hfirst := written_read (handEdge_writes x hhold) hbuf
  have hsecond := written_read (s := handEdge y (written (handEdge x s)))
    (handEdge_writes y (by rw [written_params]; exact hhold)) (written_buf_wf hbuf) a
  rw [writtenTwice, hsecond]
  exact congrArg (ite _ y) (hfirst a)

theorem cursor_written_handEdge : cursor (written (handEdge x s)) = (cursor s + 1) % activeLen s.params :=
  cursor_written (handEdge_writes x hhold)

theorem cursor_writtenTwice_modEq :
    cursor (writtenTwice x y s) ≡ cursor (written (handEdge x s)) + 1 [ZMOD activeLen s.params] := by
  have hsecond := cursor_written_handEdge (s := written (handEdge x s)) y (by rw [written_params]; exact hhold)
  rw [written_params] at hsecond
  rw [writtenTwice, hsecond]
  exact Int.mod_modEq _ _

/-- The active length is at least 4, so a write moves the cursor off its cell. -/
theorem wc_written_ne (hcursor : cursor s < activeLen s.params) : s.wc.toNat ≠ (written (handEdge x s)).wc.toNat := by
  intro heq
  have hmoved := cursor_written_handEdge x hhold
  have hsame : cursor (written (handEdge x s)) = cursor s := congrArg Nat.cast heq.symm
  have hlen := activeLen_range s.params
  have hnonneg := cursor_range s
  rcases (Int.add_one_le_of_lt hcursor).lt_or_eq with hlt | hwrap
  · rw [Int.emod_eq_of_lt (by omega) hlt] at hmoved
    omega
  · rw [hwrap, Int.emod_self] at hmoved
    omega

/-- At depth 0 the tap of stage 1 is at the cell of the second write. -/
theorem tapAddress_writtenTwice_zero (hcursor : cursor s < activeLen s.params) (hdepth : s.params.bufIndex = 0) :
    tapAddress (writtenTwice x y s) .k1 = cursor (written (handEdge x s)) := by
  have hwindow := cursor_written_lt (s := handEdge x s) hcursor
  refine tapAddress_of_modEq (cursor_range _).1 (by rwa [writtenTwice_params]) ?_
  simpa [hdepth, sext] using (cursor_writtenTwice_modEq x y hhold).sub_right 1

/-- At depth 1 it is at the cell of the first write. -/
theorem tapAddress_writtenTwice_one (hcursor : cursor s < activeLen s.params) (hdepth : s.params.bufIndex = 1) :
    tapAddress (writtenTwice x y s) .k1 = cursor s := by
  refine tapAddress_of_modEq (cursor_range s).1 (by rwa [writtenTwice_params]) ?_
  have hone : sext (writtenTwice x y s).params.bufIndex * (Stage.num .k1 : ℕ) = 1 := by
    rw [writtenTwice_params, hdepth]
    decide
  rw [hone, writtenTwice_params]
  calc cursor (writtenTwice x y s) - 1 - 1
      ≡ cursor (written (handEdge x s)) + 1 - 1 - 1 [ZMOD activeLen s.params] :=
        ((cursor_writtenTwice_modEq x y hhold).sub_right 1).sub_right 1
    _ = (cursor s + 1) % activeLen s.params - 1 := by rw [add_sub_cancel_right, cursor_written_handEdge x hhold]
    _ ≡ cursor s + 1 - 1 [ZMOD activeLen s.params] := (Int.mod_modEq _ _).sub_right 1
    _ = cursor s := add_sub_cancel_right _ _

end

/-- Settles O25: the tap address after the two writes is that of the second at depth 0, that of the first at depth 1. -/
theorem newestAndPreviousSampleReadBack : Obligations.NewestAndPreviousSampleReadBack := by
  intro s t u v x y hbuf hcursor hhold ht hu hv
  obtain rfl := Host.Outcome.next.inj ((writeSample_written (handEdge x s)).symm.trans ht)
  obtain rfl : writtenTwice x y s = u := Host.Outcome.next.inj ((writeSample_written (handEdge y _)).symm.trans hu)
  obtain rfl := Host.Outcome.next.inj ((readTap_eq .k1 _).symm.trans hv)
  have htap : (setTap (writtenTwice x y s) .k1
      ((writtenTwice x y s).buf.read (tapAddress (writtenTwice x y s) .k1).toNat)).loc.tap.s1 =
      (writtenTwice x y s).buf.read (tapAddress (writtenTwice x y s) .k1).toNat := rfl
  rw [htap, writtenTwice_read x y hhold hbuf]
  constructor
  · intro hdepth
    rw [tapAddress_writtenTwice_zero x y hhold hcursor hdepth, cursor, Int.toNat_natCast, if_pos rfl]
  · intro hdepth
    rw [tapAddress_writtenTwice_one x y hhold hcursor hdepth, cursor, Int.toNat_natCast,
      if_neg (wc_written_ne x hhold hcursor), if_pos rfl]

/-! ## ASR.NORM -/

theorem setCursor_cursor (s : State.At w) : setCursor s (cursor s) = s := by
  have hwc : BitVec.ofInt 6 (cursor s) = s.wc := by simp [cursor]
  rw [setCursor, hwc]

/-- A cursor in the window is not moved. -/
theorem normalizeCursor_of_lt {s : State.At w} (h : cursor s < activeLen s.params) : normalizeCursor s = s := by
  rw [normalizeCursor, emod_eq, Int.emod_eq_of_lt (cursor_range s).1 h, setCursor_cursor]

/-- Settles O24: LOADP is by definition ASR.NORM on the loaded registers, so its cursor lemmas are those of ASR.NORM. -/
theorem asrNormBringsTheCursorIntoTheWindow : Obligations.AsrNormBringsTheCursorIntoTheWindow := by
  refine ⟨fun _ _ => rfl, fun s => ⟨normalizeCursor s, rfl, cursor_loadp_lt s.params s, ?_, normalizeCursor_of_lt, rfl⟩⟩
  have hcursor : cursor (normalizeCursor s) = cursor s % activeLen s.params := cursor_loadp s.params s
  rw [hcursor]
  exact Int.dvd_self_sub_emod

end Sys2Proof.Machine
end

section
/-! PROOFS. Under hold the clock sample reaches `PREV` only (R164, R189): every phase after EDGE but the write is blind to it. -/

namespace Sys2Proof.Machine

variable {w : Nat}

/-! ## Phases that are blind to a change of the state -/

/-- The phase does the same after the change `g` as before it, and then the change shows unchanged. -/
def Commutes (g : State.At w → State.At w) (f : State.At w → Result w) : Prop :=
  ∀ s, f (g s) = andThen (f s) fun t => .next (g t)

theorem Commutes.andThen {g : State.At w → State.At w} {f f' : State.At w → Result w} (hf : Commutes g f)
    (hf' : Commutes g f') : Commutes g fun s => Machine.andThen (f s) f' := by
  intro s
  simp only [hf s]
  cases f s with
  | next t => exact hf' t
  | fault _ => rfl
  | refused _ => rfl

theorem Commutes.ite {g : State.At w → State.At w} {p : State.At w → Prop} [DecidablePred p] {f f' : State.At w → Result w}
    (hp : ∀ s, p (g s) = p s) (hf : Commutes g f) (hf' : Commutes g f') : Commutes g fun s => if p s then f s else f' s := by
  intro s
  simp only [hp]
  split
  · exact hf s
  · exact hf' s

/-! ## The clock -/

/-- Whatever EDGE reads or writes replaced: the clock memory, the clock sample, the edge. -/
def setClock (prev clk : F32) (edge : Bool) (s : State.At w) : State.At w :=
  { s with prev := prev, loc := { s.loc with clk := clk, edge := edge } }

section
variable (prev clk : F32) (edge : Bool) (c : Config w)

theorem byteBeat_ignoresClock : Commutes (setClock prev clk edge) (byteBeat c) := by
  intro s
  dsimp only [byteBeat, setClock]
  split <;> rfl

theorem srcBb_ignoresClock : Commutes (setClock prev clk edge) (srcBb c) := by
  intro s
  unfold srcBb
  split
  · exact byteBeat_ignoresClock prev clk edge c (advanceTime (seqReset s))
  · exact (byteBeat_ignoresClock prev clk edge c).andThen (f' := fun t => .next (advanceTime t)) (fun _ => rfl) (seqReset s)

theorem srcCv_ignoresClock : Commutes (setClock prev clk edge) (srcCv c) := by
  intro s
  dsimp only [srcCv, setClock]
  split <;> rfl

theorem seqAdvance_ignoresClock : Commutes (setClock prev clk edge) (seqAdvance c) :=
  .ite (p := fun s => sext s.params.seqDir = 1) (fun _ => rfl) (fun _ => rfl) fun _ => rfl

theorem seqRead_ignoresClock : Commutes (setClock prev clk edge) (seqRead c) := fun _ => rfl

theorem seqScale_ignoresClock : Commutes (setClock prev clk edge) (seqScale c) := by
  intro s
  dsimp only [seqScale, setClock]
  split <;> rfl

theorem startState_setClock (s : State.At w) :
    startState (setClock prev clk edge s) = setClock prev clk edge (startState s) := by
  rw [startState, startState, show inWindow (setClock prev clk edge s) = inWindow s from rfl]
  split <;> rfl

theorem srcSeq_ignoresClock : Commutes (setClock prev clk edge) (srcSeq c) := by
  have hadvance := seqAdvance_ignoresClock prev clk edge c
  have hread := seqRead_ignoresClock prev clk edge c
  have hscale := seqScale_ignoresClock prev clk edge c
  intro s
  have hstart := startState_setClock prev clk edge s
  unfold startState at hstart
  simp only [srcSeq, hstart]
  split
  · exact ((hadvance.andThen hread).andThen hscale) _
  · exact ((hread.andThen hscale).andThen hadvance) _

theorem source_ignoresClock : Commutes (setClock prev clk edge) (source c) :=
  .ite (p := fun s => sext s.params.src = 1) (fun _ => rfl) (srcBb_ignoresClock prev clk edge c) <|
    .ite (p := fun s => sext s.params.src = 2) (fun _ => rfl) (srcSeq_ignoresClock prev clk edge c)
      (srcCv_ignoresClock prev clk edge c)

theorem readTap_ignoresClock (k : Stage) : Commutes (setClock prev clk edge) (readTap (w := w) k) := fun s => by
  rw [readTap_eq, readTap_eq]
  rfl

theorem readTaps_ignoresClock : Commutes (setClock prev clk edge) (readTaps (w := w)) :=
  (((readTap_ignoresClock prev clk edge .k1).andThen (readTap_ignoresClock prev clk edge .k2)).andThen
    (readTap_ignoresClock prev clk edge .k3)).andThen (readTap_ignoresClock prev clk edge .k4)

theorem quantizeTap_ignoresClock (k : Stage) : Commutes (setClock prev clk edge) (quantizeTap c k) := fun s => by
  rw [quantizeTap_eq, quantizeTap_eq, quantizeStage_eq, quantizeStage_eq]
  dsimp only [setClock]
  split <;> rfl

theorem quantizeTaps_ignoresClock : Commutes (setClock prev clk edge) (quantizeTaps c) :=
  (((quantizeTap_ignoresClock prev clk edge c .k1).andThen (quantizeTap_ignoresClock prev clk edge c .k2)).andThen
    (quantizeTap_ignoresClock prev clk edge c .k3)).andThen (quantizeTap_ignoresClock prev clk edge c .k4)

end

/-! ## A TICK under hold -/

/-- A TICK under hold between EDGE and OUT: the phases without ASR.WR. -/
def heldPhases (c : Config w) (s : State.At w) : Result w := andThen (andThen (source c s) readTaps) (quantizeTaps c)

theorem heldPhases_ignoresClock (prev clk : F32) (edge : Bool) (c : Config w) :
    Commutes (setClock prev clk edge) (heldPhases c) :=
  ((source_ignoresClock prev clk edge c).andThen (readTaps_ignoresClock prev clk edge)).andThen
    (quantizeTaps_ignoresClock prev clk edge c)

theorem writeSample_of_hold {s : State.At w} (h : s.params.hold ≠ 0) : writeSample s = .next s := by
  rw [writeSample_written, written_of_no_write (no_write_of_hold _ h)]

theorem source_params {c : Config w} {s t : State.At w} (h : source c s = .next t) : t.params = s.params := by
  obtain ⟨_, _, _, _, _, hkept⟩ := source_eq c s
  obtain rfl := Host.Outcome.next.inj (hkept.symm.trans h)
  rfl

/-- ASR.WR drops out of the TICK, since phase 2 keeps the parameters. -/
theorem tick_of_hold (c : Config w) (cv clk : F32) {s : State.At w} (h : s.params.hold ≠ 0) :
    tick c cv clk s = andThen (heldPhases c (detectEdge (beginTick cv clk s))) fun t => .next (endTick (driveOutputs t)) := by
  obtain ⟨s1, -, -, hsource, -⟩ := tick_eq c cv clk s
  have hheld : writeSample s1 = .next s1 := writeSample_of_hold (by rwa [source_params hsource])
  rw [tick, heldPhases, hsource, andThen_next, hheld]

/-- Settles O21: the two clocks reach the phases through `setClock` only, and of that the end of the TICK keeps `PREV`. -/
theorem underHoldTheClockReachesOnlyPrev : Obligations.UnderHoldTheClockReachesOnlyPrev := by
  intro s t t' cv clk clk' hhold ht ht'
  have hclock : detectEdge (beginTick cv clk' s) =
      setClock clk' clk' (risingEdge s.prev clk') (detectEdge (beginTick cv clk s)) := rfl
  obtain ⟨s5, h5, hend⟩ := andThen_eq_next.1 ((tick_of_hold device cv clk hhold).symm.trans ht)
  have h' := (tick_of_hold device cv clk' hhold).symm.trans ht'
  rw [hclock, heldPhases_ignoresClock, h5] at h'
  obtain rfl := Host.Outcome.next.inj hend
  exact (Host.Outcome.next.inj h').symm

end Sys2Proof.Machine
end

section
/-! PROOFS. The commands RST and LOADP of the values already held (R180, R181), and the two gains that do not scale (R184). -/

namespace Sys2Proof.Machine

/-! ## RST and LOADP -/

/-- Settles O11: the state after RST is written out, so each field is read off. -/
theorem rstGivesTheResetState : Obligations.RstGivesTheResetState := by
  refine fun s => ⟨rst s, rfl, Memory.read_nil, rfl, rfl, rfl, rfl, rfl, fun n => ?_, fun k => ?_, rfl, rfl, rfl, rfl⟩
  · cases n <;> rfl
  · cases k <;> rfl

/-- Settles O13: the registers are the old ones, and ASR.NORM does not move a cursor in the window. -/
theorem loadpOfTheHeldSnapshotChangesNothing : Obligations.LoadpOfTheHeldSnapshotChangesNothing := fun _ h =>
  congrArg Host.Outcome.next (normalizeCursor_of_lt h)

/-! ## Gain 1 and gain 0 -/

theorem units_one : units f32One = oneUnits := by decide

theorem signBit_one : signBit f32One = false := by decide

theorem oneUnits_pos : 0 < oneUnits := by decide

/-- An infinity has its sign and the magnitude bits of every infinity. -/
theorem withSign_of_isInf {x : F32} (h : isInf x = true) : withSign (signBit x) 0x7F800000 = x := by
  have hmag : magBits x = 0x7F800000 := of_decide_eq_true h
  rw [← hmag, withSign_signBit_magBits]

theorem units_ne_zero_of_isInf {x : F32} (h : isInf x = true) : units x ≠ 0 := by
  have hmag : magBits x = 0x7F800000 := of_decide_eq_true h
  rw [units_eq_magUnits, hmag]
  decide

/-- An infinity keeps its pattern; a finite sample's product is rounded, from a magnitude that needs no rounding. -/
theorem fmul_one {x : F32} (h : isNaN x = false) : fmul x f32One = x := by
  have hone : isNaN f32One = false := by decide
  rcases class_cases x with hx | hx | hx
  · exact absurd (h.symm.trans hx) Bool.false_ne_true
  · have hzero : ¬(units x = 0 ∨ units f32One = 0) := by
      rw [units_one]
      exact not_or.2 ⟨units_ne_zero_of_isInf hx, oneUnits_pos.ne'⟩
    rw [fmul, h, hone, hx, if_neg (by decide), if_pos (Bool.true_or _), if_neg hzero, signBit_one, Bool.bne_false,
      withSign_of_isInf hx]
  · have hround := roundMag_mul_right (units x) 1 oneUnits_pos
    rw [one_mul] at hround
    rw [fmul_of_finite hx (by decide), units_one, signBit_one, Bool.bne_false, roundUnits, hround]
    exact roundUnits_units hx

/-- The sign bit alone is the zero with that sign. -/
theorem withSign_zero_eq_and (x : F32) : withSign (signBit x) 0 = x &&& 0x80000000#32 := by
  have hmask : 0x80000000#32 = BitVec.twoPow 32 31 := by decide
  rw [hmask, BitVec.and_twoPow, signBit]
  split
  · next h =>
    rw [h]
    decide
  · next h =>
    rw [Bool.eq_false_iff.2 h]
    decide

theorem fmul_zero {x : F32} (h : isFinite x = true) : fmul x 0 = withSign (signBit x) 0 := by
  have hzero : units 0 = 0 ∧ signBit 0 = false := by decide
  rw [fmul_of_finite h (by decide), hzero.1, hzero.2, Bool.bne_false, Nat.mul_zero]
  rfl

/-- Settles O30: the two gains are the samples 1.0 and +0.0. -/
theorem unitGainPassesAndZeroGainSilences : Obligations.UnitGainPassesAndZeroGainSilences := by
  have hone : gainAsInteger 1 = f32One := by decide
  have hzero : gainAsInteger 0 = 0 := by decide
  intro x
  rw [hone, hzero, ← withSign_zero_eq_and]
  exact ⟨fmul_one, fmul_zero⟩

end Sys2Proof.Machine
end

section
/-! PROOFS. The three sources in the words of R189 (R184 to R187): what each leaves is its `SourceResult` of rule R189. -/

namespace Sys2Proof.Machine

/-! ## The result of a source -/

/-- The state a source leaves: its result `r`, and `tv` as the table value (`execSrcCv_eq`, `execSrcBb_eq`,
`execSrcSeq_eq`). -/
def afterSource (r : SourceResult) (tv : Int) (s : State) : State :=
  { s with
    t := r.t
    cur := BitVec.ofInt 32 r.cur
    dir := r.dir
    draws := r.draws
    loc := { s.loc with tv := tv, raw := r.raw } }

/-! ## SRC.CV (R184) -/

theorem isNaN_asNaN (x : F32) : isNaN (asNaN x) = true := by
  unfold asNaN
  split
  · assumption
  · decide

theorem ruleCv_of_not_nan {cv : F32} {s : State} (h : isNaN (fmul cv (i2f s.params.gain.toInt)) = false) :
    ruleCv cv s = ⟨fmul cv (i2f s.params.gain.toInt), s.t, 0, false, s.draws⟩ :=
  if_neg (ne_true_of_eq_false h)

theorem ruleCv_of_nan {cv : F32} {s : State} (h : isNaN (fmul cv (i2f s.params.gain.toInt)) = true) :
    ruleCv cv s = ⟨asNaN (Config.freeSample s.draws), s.t, 0, false, s.draws + 1⟩ := if_pos h

theorem execSrcCv_eq (s : State) : execSrcCv s = .next (afterSource (ruleCv s.loc.cv s) s.loc.tv s) := by
  cases h : isNaN (fmul s.loc.cv (i2f s.params.gain.toInt)) with
  | false =>
    rw [ruleCv_of_not_nan h]
    exact congrArg Host.Outcome.next (if_neg (ne_true_of_eq_false h))
  | true =>
    rw [ruleCv_of_nan h]
    exact congrArg Host.Outcome.next (if_pos h)

/-- Settles O29: both clauses are those of `ruleCv`. -/
theorem srcCvMultipliesByTheGain : Obligations.SrcCvMultipliesByTheGain := by
  refine fun s => ⟨fun h => ?_, fun h => ⟨asNaN (Config.freeSample s.draws), isNaN_asNaN _, ?_⟩⟩
  · have hcv := execSrcCv_eq s
    rwa [ruleCv_of_not_nan h] at hcv
  · have hcv := execSrcCv_eq s
    rwa [ruleCv_of_nan h] at hcv

/-! ## SRC.BB (R186) -/

/-- A number in 0 to 15 as an index of the bank, by its bounds or by reduction. -/
theorem fin_ofNat_toNat {x : Int} (h : x.toNat < 16) : Fin.ofNat 16 x.toNat = ⟨x.toNat, h⟩ :=
  Fin.ext (Nat.mod_eq_of_lt h)

theorem lowByte_eq_setWidth (p : ParamWord) : lowByte p = p.setWidth 8 := (BitVec.setWidth_eq_extractLsb' (by decide)).symm

/-- `BYTEBEAT` answers the sample of R120 at the counter it is given. -/
theorem byteBeat_eq_setRaw (s : State) : byteBeat device s = .next (setRaw s (ruleByteBeat s.params s.t)) := by
  by_cases h : 0 ≤ s.params.bbEq.toInt ∧ s.params.bbEq.toInt < 16
  · have hbank : 0 ≤ sext s.params.bbEq ∧ sext s.params.bbEq < 16 := h
    have hlt : s.params.bbEq.toInt.toNat < 16 := by omega
    have hzero : (⟨s.params.bbEq.toInt.toNat, hlt⟩ : Fin 16) = 0 ↔ s.params.bbEq.toInt = 0 := by
      rw [Fin.mk_eq_zero]
      omega
    rw [byteBeat, dif_pos hbank, ruleByteBeat, if_pos (by omega), runEquation, equation, fin_ofNat_toNat hlt]
    simp only [lowByte_eq_setWidth, ← hzero]
    rfl
  · rw [byteBeat_outside device (by unfold sext; omega), ruleByteBeat, if_neg (by omega)]
    rfl

theorem execSrcBb_eq (s : State) : execSrcBb s = .next (afterSource (ruleBb s) s.loc.tv s) :=
  (srcBb_of_advanceFirst (c := device) rfl s).trans (byteBeat_eq_setRaw (advanceTime (seqReset s)))

/-- Settles O37: the bank is consulted after the reset and the advance. -/
theorem srcBbAdvancesThenEvaluates : Obligations.SrcBbAdvancesThenEvaluates := execSrcBb_eq

/-! ## SRC.SEQ (R187) -/

theorem ruleAdvance_eq (p : Params) (x : Int) (d : Bool) : ruleAdvance p x d = advanceStep device p x d := rfl

/-- The clamps of R145 and R146 as numbers are those of the model's indices. -/
theorem ruleRead_eq (p : Params) (x : Int) : ruleRead p x = tableValue device p x := by
  have hofNat (y : Int) (n : Nat) (h : 0 < n) : @Fin.ofNat n ⟨h.ne'⟩ (clamp y 0 (n - 1)).toNat = clampIndex y n h :=
    Fin.ext (Nat.mod_eq_of_lt (clampIndex y n h).isLt)
  rw [tableValue, seqTable, ← hofNat, ← hofNat]
  rfl

theorem ruleSeq_of_legal {s : State} (h : 1 ≤ s.params.seqMod.toInt) :
    ruleSeq s = ⟨fdiv (i2f (tableValue device s.params (nextStep device s).1 % s.params.seqMod.toInt)) f32Twelve, s.t,
      (nextStep device s).1, (nextStep device s).2, s.draws⟩ := by
  rw [← ruleRead_eq, nextStep, ← ruleAdvance_eq]
  exact if_pos h

theorem ruleSeq_of_illegal {s : State} (h : s.params.seqMod.toInt ≤ 0) :
    ruleSeq s = ⟨Config.freeSample s.draws, s.t, (nextStep device s).1, (nextStep device s).2, s.draws + 1⟩ :=
  if_neg (by omega)

/-- The modulus decides on the raw sample and on the draw only. -/
theorem ruleSeq_fields (s : State) : (ruleSeq s).t = s.t ∧ (ruleSeq s).cur = (nextStep device s).1 := by
  rcases Int.lt_or_le 0 s.params.seqMod.toInt with h | h
  · rw [ruleSeq_of_legal h]
    exact ⟨rfl, rfl⟩
  · rw [ruleSeq_of_illegal h]
    exact ⟨rfl, rfl⟩

theorem ruleSeq_cur (s : State) : (ruleSeq s).cur = (nextStep device s).1 := (ruleSeq_fields s).2

theorem execSrcSeq_eq (s : State) :
    execSrcSeq s = .next (afterSource (ruleSeq s) (ruleRead s.params (ruleSeq s).cur) s) := by
  refine (srcSeq_of_advanceFirst (c := device) rfl s).trans ?_
  rw [ruleRead_eq, ruleSeq_cur]
  rcases Int.lt_or_le 0 s.params.seqMod.toInt with h | h
  · have hscale := seqScale_of_legal device (s := setTv (setStepper s (nextStep device s))
      (tableValue device s.params (nextStep device s).1)) h (device_seqRomOk _ _).1
    rw [hscale, emod_eq, ruleSeq_of_legal h]
    rfl
  · have hscale := seqScale_of_illegal device (s := setTv (setStepper s (nextStep device s))
      (tableValue device s.params (nextStep device s).1)) (.inl h)
    rw [hscale, ruleSeq_of_illegal h]
    rfl

theorem ruleSeq_range (s : State) : CurRange (ruleSeq s).cur := by
  rw [ruleSeq_cur]
  exact nextStep_range device s

/-- A cursor in the range of R56 is what `CUR` then holds. -/
theorem cur_afterSource {r : SourceResult} (h : CurRange r.cur) (tv : Int) (s : State) :
    (afterSource r tv s).cur.toInt = r.cur :=
  seqCursor_setSeqCursor s (by omega) (by omega)

/-- Settles O42: one advance from where SRC.SEQ starts fits `CUR`, and the table is read there. -/
theorem srcSeqStepsAndReads : Obligations.SrcSeqStepsAndReads := fun s => by
  have hcur := cur_afterSource (ruleSeq_range s) (ruleRead s.params (ruleSeq s).cur) s
  have htime := (ruleSeq_fields s).1
  refine ⟨_, execSrcSeq_eq s, hcur, rfl, rfl, rfl, by rw [hcur]; rfl, ?_⟩
  rw [afterSource, htime]

/-! ## The selected source (R85) -/

theorem source_eq_afterSource (s : State) :
    ∃ tv, source device s = .next (afterSource (ruleSource s.loc.cv s) tv s) := by
  unfold source ruleSource sext
  split
  · exact ⟨_, execSrcBb_eq s⟩
  · split
    · exact ⟨_, execSrcSeq_eq s⟩
    · exact ⟨_, execSrcCv_eq s⟩

/-- Only the sequence leaves the stepper elsewhere than at cursor 0, direction +1 (R185). -/
theorem ruleSource_stepper {cv : F32} {s : State} (h : s.params.src.toInt ≠ 2) :
    (ruleSource cv s).cur = 0 ∧ (ruleSource cv s).dir = false := by
  rw [ruleSource, if_neg h]
  split
  · exact ⟨rfl, rfl⟩
  · unfold ruleCv
    split <;> exact ⟨rfl, rfl⟩

theorem ruleSource_range (cv : F32) (s : State) : CurRange (ruleSource cv s).cur := by
  by_cases h : s.params.src.toInt = 2
  · rw [ruleSource, if_neg (by omega), if_pos h]
    exact ruleSeq_range s
  · rw [(ruleSource_stepper h).1]
    decide

/-- ByteBeat and the sequence do not read the CV sample (R192). -/
theorem ruleSource_of_generated {s : State} (h : s.params.src.toInt = 1 ∨ s.params.src.toInt = 2) (cv cv' : F32) :
    ruleSource cv s = ruleSource cv' s := by
  by_cases h1 : s.params.src.toInt = 1
  · simp only [ruleSource, if_pos h1]
  · simp only [ruleSource, if_neg h1, if_pos (h.resolve_left h1)]

end Sys2Proof.Machine
end

section
/-! PROOFS. A TICK in one piece (R189), and what follows from its state: the stepper of the other sources (R185), the CV sample
of the generated ones (R192). -/

namespace Sys2Proof.Machine

variable {w : Nat}

/-! ## Phase 3 -/

/-- The buffer after phase 3 (`written_eq_fields`). -/
def bufAfter (writes : Bool) (raw : F32) (s : State.At w) : Memory :=
  if writes then s.buf.write s.wc.toNat raw else s.buf

/-- The write cursor after phase 3 (`written_eq_fields`). -/
def wcAfter (writes : Bool) (s : State.At w) : BitVec 6 :=
  if writes then BitVec.ofInt 6 (emod (cursor s + 1) (activeLen s.params)) else s.wc

theorem written_eq_fields (s : State.At w) : written s = { s with
    buf := bufAfter (s.loc.edge && !holdEngaged s.params) s.loc.raw s,
    wc := wcAfter (s.loc.edge && !holdEngaged s.params) s } := by
  unfold written bufAfter wcAfter
  split <;> rfl

theorem bufAfter_read {s : State.At w} (h : s.buf.wf = true) (writes : Bool) (raw : F32) (a : Nat) :
    (bufAfter writes raw s).read a = if writes = true ∧ a = s.wc.toNat then raw else s.buf.read a := by
  cases writes with
  | false => simp [bufAfter]
  | true => simp [bufAfter, Memory.read_write h]

theorem wcAfter_toNat (writes : Bool) (s : State.At w) : ((wcAfter writes s).toNat : Int) =
    if writes then ((s.wc.toNat : Int) + 1) % activeLen s.params else s.wc.toNat := by
  cases writes with
  | false => rfl
  | true =>
    have hlen := activeLen_range s.params
    have hmod := emod_range (cursor s + 1) (b := activeLen s.params) (by omega)
    rw [if_pos rfl, ← emod_eq]
    exact cursor_setCursor s hmod.1 (by omega)

/-! ## Phases 4 and 5 -/

/-- The four tap values of phase 4 (`readTaps_eq`). -/
def tapValues (s : State.At w) : Lanes :=
  ⟨s.buf.read (tapAddress s .k1).toNat, s.buf.read (tapAddress s .k2).toNat, s.buf.read (tapAddress s .k3).toNat,
    s.buf.read (tapAddress s .k4).toNat⟩

/-- The four tap values replaced (`readTap_setTaps`, `readTaps_eq`). -/
def setTaps (l : Lanes) (s : State.At w) : State.At w := { s with loc := { s.loc with tap := l } }

/-- No tap reads another. -/
theorem readTap_setTaps (k : Stage) (l : Lanes) (s : State.At w) :
    readTap k (setTaps l s) = .next (setTaps (l.set (s.buf.read (tapAddress s k).toNat) k) s) := readTap_eq k _

theorem readTaps_eq (s : State.At w) : readTaps s = .next (setTaps (tapValues s) s) := by
  change readTaps (setTaps s.loc.tap s) = _
  simp only [readTaps, readTap_setTaps, andThen_next]
  rfl

/-- The four quantized values of phase 5 and the count of drawn values after them (`quantizeTaps_eq`). -/
def ruleQuantizeLanes (p : Params) (tap : Lanes) (n : Nat) : Lanes × Nat :=
  let q1 := ruleQuantize p tap.s1 n
  let q2 := ruleQuantize p tap.s2 q1.2
  let q3 := ruleQuantize p tap.s3 q2.2
  let q4 := ruleQuantize p tap.s4 q3.2
  (⟨q1.1, q2.1, q3.1, q4.1⟩, q4.2)

/-- The four quantized values and the count of drawn values replaced (`quantizeTap_setQuantized`, `quantizeTaps_eq`). -/
def setQuantized (l : Lanes) (n : Nat) (s : State) : State := { s with loc := { s.loc with q := l }, draws := n }

/-- No quantized value reads another; a draw moves the count on for the next. -/
theorem quantizeTap_setQuantized {k : Stage} {s : State} {m n : Nat} {q : F32} (l : Lanes)
    (h : ruleQuantize s.params (s.loc.tap.get k) m = (q, n)) :
    quantizeTap device k (setQuantized l m s) = .next (setQuantized (l.set q k) n s) := by
  rw [quantizeTap_eq, quantizeStage_eq]
  unfold ruleQuantize at h
  dsimp only [setQuantized, sext]
  cases hv : quantize device s.params (resolve device s.params.scale.toInt) (s.loc.tap.get k) with
  | some v =>
    rw [hv] at h
    obtain ⟨rfl, rfl⟩ := Prod.mk.inj h
    rfl
  | none =>
    rw [hv] at h
    obtain ⟨rfl, rfl⟩ := Prod.mk.inj h
    rfl

theorem quantizeTaps_eq (s : State) : quantizeTaps device s = .next
    (setQuantized (ruleQuantizeLanes s.params s.loc.tap s.draws).1 (ruleQuantizeLanes s.params s.loc.tap s.draws).2 s) := by
  rcases h1 : ruleQuantize s.params s.loc.tap.s1 s.draws with ⟨q1, n1⟩
  rcases h2 : ruleQuantize s.params s.loc.tap.s2 n1 with ⟨q2, n2⟩
  rcases h3 : ruleQuantize s.params s.loc.tap.s3 n2 with ⟨q3, n3⟩
  rcases h4 : ruleQuantize s.params s.loc.tap.s4 n3 with ⟨q4, n4⟩
  have hlanes : ruleQuantizeLanes s.params s.loc.tap s.draws = (⟨q1, q2, q3, q4⟩, n4) := by
    simp only [ruleQuantizeLanes, h1, h2, h3, h4]
  change quantizeTaps device (setQuantized s.loc.q s.draws s) = _
  rw [hlanes, quantizeTaps, quantizeTap_setQuantized (k := .k1) _ h1, andThen_next, quantizeTap_setQuantized (k := .k2) _ h2,
    andThen_next, quantizeTap_setQuantized (k := .k3) _ h3, andThen_next, quantizeTap_setQuantized (k := .k4) _ h4]
  rfl

/-! ## The whole TICK -/

/-- ASR.WR writes in a TICK (R161, R163, R164). -/
def tickWrites (clk : F32) (s : State) : Bool := risingEdge s.prev clk && !holdEngaged s.params

/-- The state phase 3 of a TICK leaves, as far as phase 4 reads it. -/
def tickStored (cv clk : F32) (s : State) : State :=
  { s with buf := bufAfter (tickWrites clk s) (ruleSource cv s).raw s, wc := wcAfter (tickWrites clk s) s }

/-- The outputs of a TICK and its count of drawn values. -/
def tickOutputs (cv clk : F32) (s : State) : Lanes × Nat :=
  ruleQuantizeLanes s.params (tapValues (tickStored cv clk s)) (ruleSource cv s).draws

/-- The state a TICK answers (`execTick_eq`). -/
def tickState (cv clk : F32) (s : State) : State :=
  { tickStored cv clk s with
    prev := clk
    t := (ruleSource cv s).t
    cur := BitVec.ofInt 32 (ruleSource cv s).cur
    dir := (ruleSource cv s).dir
    out := (tickOutputs cv clk s).1
    loc := TickLocals.idle
    draws := (tickOutputs cv clk s).2 }

theorem ruleSource_detectEdge (cv cv' clk : F32) (s : State) :
    ruleSource cv (detectEdge (beginTick cv' clk s)) = ruleSource cv s := rfl

theorem execTick_eq (cv clk : F32) (s : State) : execTick cv clk s = .next (tickState cv clk s) := by
  obtain ⟨tv, hsource⟩ := source_eq_afterSource (detectEdge (beginTick cv clk s))
  rw [ruleSource_detectEdge] at hsource
  simp only [execTick, tick, hsource, andThen_next, writeSample_written, written_eq_fields, readTaps_eq, quantizeTaps_eq]
  rfl

/-! ## What the sources let through -/

/-- Settles O31: the stepper of `tickState` is the one the source leaves. -/
theorem otherSourcesResetTheStepper : Obligations.OtherSourcesResetTheStepper := by
  intro s t cv clk hsrc h
  obtain rfl := Host.Outcome.next.inj ((execTick_eq cv clk s).symm.trans h)
  obtain ⟨hcur, hdir⟩ := ruleSource_stepper (cv := cv) hsrc
  exact ⟨congrArg (BitVec.ofInt 32) hcur, hdir⟩

/-- Settles O55: `tickState` reads the CV sample through the source only. -/
theorem cvDoesNotReachGeneratedSources : Obligations.CvDoesNotReachGeneratedSources := by
  intro s cv cv' clk h
  have hstate : tickState cv clk s = tickState cv' clk s := by
    simp only [tickState, tickOutputs, tickStored, ruleSource_of_generated h cv cv']
  exact (execTick_eq cv clk s).trans ((congrArg _ hstate).trans (execTick_eq cv' clk s).symm)

/-! ## Rule R189, field by field -/

theorem not_holdEngaged (p : Params) : (!holdEngaged p) = decide (p.hold = 0) := by
  by_cases h : p.hold = 0
  · rw [holdEngaged_of_zero h, decide_eq_true h, Bool.not_false]
  · rw [holdEngaged_of_ne_zero h, decide_eq_false h, Bool.not_true]

theorem tickWrites_eq (clk : F32) (s : State) :
    tickWrites clk s = (fle s.prev f32One && flt f32One clk && decide (s.params.hold = 0)) := by
  rw [tickWrites, not_holdEngaged]
  rfl

/-- What cell `a` holds after phase 3, as R189 has it (`tickStored_read`). -/
def tickCell (cv clk : F32) (s : State) (a : Nat) : F32 :=
  if tickWrites clk s = true ∧ a = s.wc.toNat then (ruleSource cv s).raw else s.buf.read a

/-- The write cursor after phase 3, as R189 has it (`cursor_tickStored`). -/
def tickCursor (clk : F32) (s : State) : Int :=
  if tickWrites clk s then ((s.wc.toNat : Int) + 1) % activeLen s.params else s.wc.toNat

/-- The tap value of stage `k`, as R189 has it (`tapValues_tickStored`). -/
def tickTap (cv clk : F32) (s : State) (k : Int) : F32 :=
  tickCell cv clk s ((tickCursor clk s - 1 - s.params.bufIndex.toInt * k) % activeLen s.params).toNat

theorem tickStored_read {s : State} (h : s.buf.wf = true) (cv clk : F32) (a : Nat) :
    (tickStored cv clk s).buf.read a = tickCell cv clk s a := bufAfter_read h _ _ a

theorem cursor_tickStored (cv clk : F32) (s : State) : cursor (tickStored cv clk s) = tickCursor clk s :=
  wcAfter_toNat _ s

theorem tapValues_tickStored {s : State} (h : s.buf.wf = true) (cv clk : F32) : tapValues (tickStored cv clk s) =
    ⟨tickTap cv clk s 1, tickTap cv clk s 2, tickTap cv clk s 3, tickTap cv clk s 4⟩ := by
  simp only [tapValues, tickStored_read h, tapAddress, emod_eq, cursor_tickStored]
  rfl

/-- Settles O14: `tickState` has the fields of the rule, phases 3 to 5 read as above. -/
theorem tickPerformsRuleR189 : Obligations.TickPerformsRuleR189 := by
  intro cv clk s hbuf
  have hcur := ruleSource_range cv s
  have hout : tickOutputs cv clk s = ruleQuantizeLanes s.params _ (ruleSource cv s).draws :=
    congrArg (ruleQuantizeLanes s.params · _) (tapValues_tickStored hbuf cv clk)
  refine ⟨tickState cv clk s, execTick_eq cv clk s, ?_⟩
  simp only [RuleTick, ← tickWrites_eq]
  exact ⟨tickStored_read hbuf cv clk, cursor_tickStored cv clk s, rfl, rfl,
    seqCursor_setSeqCursor s (by omega) (by omega), rfl, rfl, congrArg Prod.fst hout, rfl, congrArg Prod.snd hout, rfl⟩

end Sys2Proof.Machine
end

section
/-! PROOFS. The commands behind the one executed (R183, R208): no command reads or changes them, so an IDLE among them can be
left out. -/

namespace Sys2Proof.Machine

/-! ## Commands are blind to those behind them -/

/-- The waiting commands replaced. -/
def setInbox (l : List PortSample) (s : State) : State := { s with inbox := l }

theorem ruleSource_setInbox (cv : F32) (l : List PortSample) (s : State) :
    ruleSource cv (setInbox l s) = ruleSource cv s := rfl

theorem tickStored_setInbox (cv clk : F32) (l : List PortSample) (s : State) :
    tickStored cv clk (setInbox l s) = setInbox l (tickStored cv clk s) := by
  rw [tickStored, ruleSource_setInbox]
  rfl

theorem tickOutputs_setInbox (cv clk : F32) (l : List PortSample) (s : State) :
    tickOutputs cv clk (setInbox l s) = tickOutputs cv clk s := by
  rw [tickOutputs, ruleSource_setInbox, tickStored_setInbox]
  rfl

theorem tickState_setInbox (cv clk : F32) (l : List PortSample) (s : State) :
    tickState cv clk (setInbox l s) = setInbox l (tickState cv clk s) := by
  rw [tickState, ruleSource_setInbox, tickOutputs_setInbox, tickStored_setInbox]
  rfl

/-- Whatever waits behind a command, it does the same and leaves that as it is. -/
theorem exists_exec_decodePort (p : PortSample) (s : State) :
    ∃ t, ∀ l, exec (decodePort p) (setInbox l s) = .next (setInbox l t) := by
  unfold decodePort
  split
  · exact ⟨s, fun _ => rfl⟩
  · exact ⟨loadp (Params.ofWord p.paramIn) s, fun _ => rfl⟩
  · refine ⟨tickState p.cvIn p.clkIn s, fun l => ?_⟩
    rw [← tickState_setInbox]
    exact execTick_eq p.cvIn p.clkIn (setInbox l s)
  · exact ⟨rst s, fun _ => rfl⟩

/-! ## Runs -/

theorem run_succ_of_step {M : Host.Core} {s t : M.State} (h : M.step s = .next t) (k : Nat) :
    M.run (k + 1) s = M.run k t := by
  rw [Host.Core.run, h]

/-- The sample carries another command than IDLE (R80). -/
def notIdle (p : PortSample) : Bool := decide (p.cmd ≠ 0)

theorem filter_notIdle_of_idle {p : PortSample} (h : p.cmd = 0) (l : List PortSample) :
    (p :: l).filter notIdle = l.filter notIdle := List.filter_cons_of_neg (by simp [notIdle, h])

theorem filter_notIdle_of_ne {p : PortSample} (h : p.cmd ≠ 0) (l : List PortSample) :
    (p :: l).filter notIdle = p :: l.filter notIdle := List.filter_cons_of_pos (decide_eq_true h)

theorem decodePort_of_idle {p : PortSample} (h : p.cmd = 0) : decodePort p = .idle := by
  rw [decodePort, h]
  rfl

theorem run_filter_notIdle (l : List PortSample) (s : State) :
    Sys2Proof.core.run l.length (setInbox l s) =
      Sys2Proof.core.run (l.filter notIdle).length (setInbox (l.filter notIdle) s) := by
  induction l generalizing s with
  | nil => rfl
  | cons p l ih =>
    have hstep (l' : List PortSample) : step (setInbox (p :: l') s) = exec (decodePort p) (setInbox l' s) := rfl
    by_cases hp : p.cmd = 0
    · have hidle : step (setInbox (p :: l) s) = .next (setInbox l s) := by
        rw [hstep, decodePort_of_idle hp]
        rfl
      rw [filter_notIdle_of_idle hp]
      exact (run_succ_of_step (M := Sys2Proof.core) hidle l.length).trans (ih s)
    · obtain ⟨t, ht⟩ := exists_exec_decodePort p s
      have hrun (l' : List PortSample) :
          Sys2Proof.core.run (l'.length + 1) (setInbox (p :: l') s) = Sys2Proof.core.run l'.length (setInbox l' t) :=
        run_succ_of_step (M := Sys2Proof.core) ((hstep l').trans (ht l')) l'.length
      rw [filter_notIdle_of_ne hp]
      exact (hrun l).trans ((ih t).trans (hrun _).symm)

/-- Settles O10: a run takes the IDLEs out one by one. -/
theorem idlesChangeNoLaterResult : Obligations.IdlesChangeNoLaterResult := fun s => ⟨rfl, run_filter_notIdle s.inbox s⟩

end Sys2Proof.Machine
end

section
/-! PROOFS. No instruction and no step stops (R200, R206). The buffer accesses that could are ASR.WR and the taps, whose
addresses `cursor_range` and `tapAddress_range` keep within the 64 cells (R65). -/

namespace Sys2Proof.Machine

/-- Each instruction has an effect on a next state, so it answers one. -/
theorem exec_completes (i : Instr) (s : State) : Completes (exec i s) :=
  let ⟨t, ht, _⟩ := exec_effect i s
  ⟨t, ht⟩

/-- Settles O4: a step is `exec` of the command on the ports, and `exec` answers a next state (`exec_effect`). -/
theorem everyCommandFromEveryStateHasANextState : Obligations.EveryCommandFromEveryStateHasANextState :=
  ⟨exec_completes, fun s => exec_completes (decodePort (nextPorts s)) (takeCommand s)⟩

end Sys2Proof.Machine
end

section
/-! PROOFS. At depth 0 the cell a TICK writes is the cell all four of its taps read (R169, R226). -/

namespace Sys2Proof.Machine

/-- At depth 0 every tap is one cell behind the moved cursor: in the cell just written. -/
theorem tickTap_of_write_of_depth_zero {clk : F32} {s : State} (hwrites : tickWrites clk s = true)
    (hcursor : cursor s < activeLen s.params) (hdepth : s.params.bufIndex = 0) (cv : F32) (k : Int) :
    tickTap cv clk s k = (ruleSource cv s).raw := by
  have haddress : (tickCursor clk s - 1 - s.params.bufIndex.toInt * k) % activeLen s.params = s.wc.toNat := by
    have hzero : s.params.bufIndex.toInt = 0 := congrArg BitVec.toInt hdepth
    rw [tickCursor, if_pos hwrites, hzero, zero_mul, sub_zero, Int.emod_sub_emod, add_sub_cancel_right]
    exact Int.emod_eq_of_lt (cursor_range s).1 hcursor
  rw [tickTap, haddress, Int.toNat_natCast, tickCell, if_pos ⟨hwrites, rfl⟩]

/-- Phase 2 with `P.SRC = 0` is SRC.CV (R85). -/
theorem ruleSource_of_cv {s : State} (h : s.params.src = 0) (cv : F32) : ruleSource cv s = ruleCv cv s := by
  rw [ruleSource, h]
  rfl

theorem ruleQuantize_of_some {p : Params} {v q : F32} (h : quantize device p (resolve device p.scale.toInt) v = some q)
    (n : Nat) : ruleQuantize p v n = (q, n) := by
  rw [ruleQuantize, h]

/-- Settles O26: the four taps read the sample just written, so the four quantizations are one. -/
theorem writeIsSeenByTheSameTick : Obligations.WriteIsSeenByTheSameTick := by
  intro s t cv clk q hbuf hcursor hhold hdepth hsrc hedge hnan hquantize h
  obtain rfl := Host.Outcome.next.inj ((execTick_eq cv clk s).symm.trans h)
  have hwrites : tickWrites clk s = true := by rw [tickWrites, hedge, holdEngaged_of_zero hhold]; rfl
  have htap (k : Int) : tickTap cv clk s k = fmul cv (i2f s.params.gain.toInt) := by
    rw [tickTap_of_write_of_depth_zero hwrites hcursor hdepth, ruleSource_of_cv hsrc, ruleCv_of_not_nan hnan]
  calc (tickOutputs cv clk s).1
      = (ruleQuantizeLanes s.params ⟨tickTap cv clk s 1, tickTap cv clk s 2, tickTap cv clk s 3, tickTap cv clk s 4⟩
          (ruleSource cv s).draws).1 := by rw [tickOutputs, tapValues_tickStored hbuf]
    _ = ⟨q, q, q, q⟩ := by simp only [ruleQuantizeLanes, htap, ruleQuantize_of_some hquantize]

end Sys2Proof.Machine
end
